-- ==== Sys2Proof/Word.lean ====
section
/-! DEFINITION. The word types of the CCDI core: bytes, 32-bit words, pin levels (spec/00_scope.md section 6). -/

namespace Sys2Proof

/-- A byte: the unit of every memory access (R40) and the width of the shift registers (R14, R15). -/
abbrev Byte := BitVec 8

/-- A 32-bit unsigned value: the millisecond counter (R26), `last_edge_ms` (R18), `MAX_CLK_TIME` (R4). -/
abbrev Word32 := BitVec 32

/-- A 32-bit stimulus word `W` (R66). -/
abbrev StimWord := BitVec 32

/-- A level, one bit: `false` is electrically low (0), `true` is high (1) (section 6, R64). -/
abbrev Level := Bool

end Sys2Proof
end

