-- ==== Sys2Proof/Config.lean ====
section
/-! DEFINITION. The parameters of one instance of the core (spec/00_scope.md R4, R5) and the types of their values
(spec/30_encoding.md R64). The spec fixes every open value by a decision, so no free value stands here. -/

namespace Sys2Proof

/-- The SPI clock mode, by the source's own number (R4, R64). Only R6 reads it. -/
inductive ClkMode where
  | mode0
  | mode1
  | mode2
  | mode3
  deriving DecidableEq, Repr

/-- Which bit of a byte is first on the wire (R4, R48). -/
inductive BitOrder where
  | msbFirst
  | lsbFirst
  deriving DecidableEq, Repr

/-- A ring capacity: an integer that is at least 1 (R4, R5). A ring of capacity 0 has no meaning (R5), so the type
has none. -/
structure Capacity where
  entries : Nat
  isPos : 0 < entries
  deriving DecidableEq, Repr

/-- The parameters of one instance (R4): arguments of the machine, which no stimulus changes (R176; log entry 1). -/
structure Params where
  /-- `RX_CAP`, entries of the receive ring. -/
  rxCap : Capacity
  /-- `TX_CAP`, entries of the transmit ring. -/
  txCap : Capacity
  /-- `HAS_SEL`, a select pin is configured. -/
  hasSel : Bool
  /-- `HAS_DIN`, a data-in pin is configured. -/
  hasDin : Bool
  /-- `HAS_DOUT`, a data-out pin is configured. -/
  hasDout : Bool
  /-- `CLK_IRQ_CAPABLE`, the answer of `interruptCapable(clock pin)`. -/
  clkIrqCapable : Bool
  /-- `SEL_IRQ_CAPABLE`, the answer of `interruptCapable(select pin)`. -/
  selIrqCapable : Bool
  /-- `SEL_ACTIVE`, the select level that means selected. -/
  selActive : Level
  /-- `CLK_MODE`. -/
  clkMode : ClkMode
  /-- `BIT_ORDER`. -/
  bitOrder : BitOrder
  /-- `MAX_CLK_TIME`, milliseconds between clock edges; 0 disables the check (width: D11). -/
  maxClkTime : Word32
  deriving DecidableEq, Repr

/-- The source's default capacity, 64 entries (R4). -/
def Capacity.sourceDefault : Capacity := ⟨64, by decide⟩

/-- The default instance of spec/95_test_vectors.md: the parameters `State.reset` carries. DESIGN CHOICE (log entry 1):
the source gives defaults for the capacities only. Unsafe where a claim rests on these values; none does. -/
def Params.defaults : Params where
  rxCap := .sourceDefault
  txCap := .sourceDefault
  hasSel := true
  hasDin := true
  hasDout := false
  clkIrqCapable := true
  selIrqCapable := true
  selActive := false
  clkMode := .mode0
  bitOrder := .msbFirst
  maxClkTime := 0#32

end Sys2Proof
end

