-- ==== Sys2Proof/Syntax.lean ====
section
/-! DEFINITION. The instruction set: the 32 stimuli of spec/30_encoding.md R68, one constructor a row, and the names
that describe them (formats R66, agents R7, reasons a word is refused R69, rows of the opcode table R68). -/

namespace Sys2Proof

/-- The stimuli (R68). Operands stand in the order of the spec's call (R67, R72). -/
inductive Instr where
  /-- `CLK v` (R80). -/
  | clk (v : Level)
  /-- `SEL v` (R81). -/
  | sel (v : Level)
  /-- `DIN v` (R82). -/
  | din (v : Level)
  /-- `TIME dt`, `dt` milliseconds (R83); the word carries 24 bits (`WellFormed`). -/
  | time (dt : Nat)
  /-- `RESET` (R160). -/
  | reset
  /-- `begin` (R100). -/
  | beginSession
  /-- `end` (R101). -/
  | endSession
  /-- `rxBytesAvailable` (R102). -/
  | rxBytesAvailable
  /-- `rxBytesRemaining` (R103). -/
  | rxBytesRemaining
  /-- `rxHasData` (R104). -/
  | rxHasData
  /-- `rxHasLostData` (R105). -/
  | rxHasLostData
  /-- `read` (R106). -/
  | read
  /-- `peek` (R107). -/
  | peek
  /-- `write b` (R108). -/
  | write (b : Byte)
  /-- `txIsFull` (R109). -/
  | txIsFull
  /-- `getResyncCount` (R110). -/
  | getResyncCount
  /-- `updateLsb b` (R120). -/
  | updateLsb (b : Byte)
  /-- `updateMb b` (R121). -/
  | updateMb (b : Byte)
  /-- `updateMsb b` (R122). -/
  | updateMsb (b : Byte)
  /-- `updateByte b, index` (R123); the word carries 8 bits of index (`WellFormed`). -/
  | updateByte (b : Byte) (index : Nat)
  /-- `updateDataBytes msb, mb, lsb` (R124). -/
  | updateDataBytes (msb mb lsb : Byte)
  /-- `refresh` (R125). -/
  | refresh
  /-- `getRawMeasurement` (R126). -/
  | getRawMeasurement
  /-- `getMeasurement` (R127). -/
  | getMeasurement
  /-- `getUnit` (R128). -/
  | getUnit
  /-- `getSign` (R129). -/
  | getSign
  /-- `getUnitString` (R130). -/
  | getUnitString
  /-- `getSignString` (R131). -/
  | getSignString
  /-- `setNewData` (R132). -/
  | setNewData
  /-- `clearNewData` (R133). -/
  | clearNewData
  /-- `isNewData` (R134). -/
  | isNewData
  /-- `getPacketLength` (R135). -/
  | getPacketLength
  deriving DecidableEq, Repr

/-- The six formats that divide the 24 argument bits (R66). -/
inductive Format where
  | n
  | v
  | t
  | b
  | bi
  | p
  deriving DecidableEq, Repr

/-- The agents whose steps the stimuli are (R7). `IRQ` has no step of its own: its handlers run inside a WIRE step. -/
inductive Agent where
  | wire
  | host
  | rst
  deriving DecidableEq, Repr

/-- Why the decoder refuses a word (R69). -/
inductive Reject where
  /-- `op` is not in the table of R68. -/
  | unassignedOp (op : Byte)
  /-- A bit that the format of `op` requires to be 0 is 1. -/
  | nonzeroArgument (op : Byte) (arg : BitVec 24)
  deriving DecidableEq, Repr

/-- One row of the opcode table: a word `W` selects it exactly when `W & mask = match` (R68). -/
structure TableRow where
  mnemonic : String
  matchBits : StimWord
  mask : StimWord
  deriving DecidableEq, Repr

end Sys2Proof
end

