-- ==== Sys2Proof/WellFormed.lean ====
section
/-! DEFINITION. Which stimuli have a word: the two operands that are numbers must fit their fields (spec/30_encoding.md
R66, formats T and BI); every other operand's type is its field. -/

namespace Sys2Proof

/-- The operands fit the fields of the stimulus word (R66): `dt` 24 bits, `index` 8 bits. -/
def Instr.wellFormed : Instr → Bool
  | .clk _ => true
  | .sel _ => true
  | .din _ => true
  | .time dt => decide (dt < 2 ^ 24)
  | .reset => true
  | .beginSession => true
  | .endSession => true
  | .rxBytesAvailable => true
  | .rxBytesRemaining => true
  | .rxHasData => true
  | .rxHasLostData => true
  | .read => true
  | .peek => true
  | .write _ => true
  | .txIsFull => true
  | .getResyncCount => true
  | .updateLsb _ => true
  | .updateMb _ => true
  | .updateMsb _ => true
  | .updateByte _ index => decide (index < 2 ^ 8)
  | .updateDataBytes _ _ _ => true
  | .refresh => true
  | .getRawMeasurement => true
  | .getMeasurement => true
  | .getUnit => true
  | .getSign => true
  | .getUnitString => true
  | .getSignString => true
  | .setNewData => true
  | .clearNewData => true
  | .isNewData => true
  | .getPacketLength => true

end Sys2Proof
end

