-- ==== Sys2Proof/Decode.lean ====
section
/-! DEFINITION. The stimulus word (spec/30_encoding.md R66, R68, R69): the decoder, then the encoder written from the
same tables, and the opcode table itself. -/

namespace Sys2Proof

/-- `op = W[31:24]` (R66). -/
def opField (w : StimWord) : Byte := w.extractLsb' 24 8

/-- `arg = W[23:0]` (R66). -/
def argField (w : StimWord) : BitVec 24 := w.extractLsb' 0 24

/-- Byte `k` of the argument, `arg[8k+7:8k]` (R66). -/
def argByte (k : Nat) (arg : BitVec 24) : Byte := arg.extractLsb' (8 * k) 8

/-- Format N: all 24 argument bits are 0 (R66). -/
def decodeN (op : Byte) (arg : BitVec 24) (i : Instr) : Except Reject Instr :=
  if arg = 0 then .ok i else .error (.nonzeroArgument op arg)

/-- Format V: bit 0 is the level, bits 23:1 are 0 (R66). -/
def decodeV (op : Byte) (arg : BitVec 24) (make : Level → Instr) : Except Reject Instr :=
  if arg.extractLsb' 1 23 = 0 then .ok (make (arg.getLsbD 0)) else .error (.nonzeroArgument op arg)

/-- Format T: all 24 bits are `dt` (R66). -/
def decodeT (arg : BitVec 24) (make : Nat → Instr) : Except Reject Instr :=
  .ok (make arg.toNat)

/-- Format B: bits 7:0 are the byte, bits 23:8 are 0 (R66). -/
def decodeB (op : Byte) (arg : BitVec 24) (make : Byte → Instr) : Except Reject Instr :=
  if arg.extractLsb' 8 16 = 0 then .ok (make (argByte 0 arg)) else .error (.nonzeroArgument op arg)

/-- Format BI: bits 7:0 are the byte, 15:8 the index, 23:16 are 0 (R66). -/
def decodeBI (op : Byte) (arg : BitVec 24) (make : Byte → Nat → Instr) : Except Reject Instr :=
  if argByte 2 arg = 0 then .ok (make (argByte 0 arg) (argByte 1 arg).toNat)
  else .error (.nonzeroArgument op arg)

/-- Format P: `msb`, `mb`, `lsb` from the top byte down (R66). -/
def decodeP (arg : BitVec 24) (make : Byte → Byte → Byte → Instr) : Except Reject Instr :=
  .ok (make (argByte 2 arg) (argByte 1 arg) (argByte 0 arg))

/-- The decoder, total on all words: the opcode map of R68; a word that selects no row is refused (R69). -/
def decode (w : StimWord) : Except Reject Instr :=
  let op := opField w
  let arg := argField w
  match op.toNat with
  | 0x01 => decodeV op arg .clk
  | 0x02 => decodeV op arg .sel
  | 0x03 => decodeV op arg .din
  | 0x04 => decodeT arg .time
  | 0x05 => decodeN op arg .reset
  | 0x10 => decodeN op arg .beginSession
  | 0x11 => decodeN op arg .endSession
  | 0x12 => decodeN op arg .rxBytesAvailable
  | 0x13 => decodeN op arg .rxBytesRemaining
  | 0x14 => decodeN op arg .rxHasData
  | 0x15 => decodeN op arg .rxHasLostData
  | 0x16 => decodeN op arg .read
  | 0x17 => decodeN op arg .peek
  | 0x18 => decodeB op arg .write
  | 0x19 => decodeN op arg .txIsFull
  | 0x1A => decodeN op arg .getResyncCount
  | 0x20 => decodeB op arg .updateLsb
  | 0x21 => decodeB op arg .updateMb
  | 0x22 => decodeB op arg .updateMsb
  | 0x23 => decodeBI op arg .updateByte
  | 0x24 => decodeP arg .updateDataBytes
  | 0x25 => decodeN op arg .refresh
  | 0x26 => decodeN op arg .getRawMeasurement
  | 0x27 => decodeN op arg .getMeasurement
  | 0x28 => decodeN op arg .getUnit
  | 0x29 => decodeN op arg .getSign
  | 0x2A => decodeN op arg .getUnitString
  | 0x2B => decodeN op arg .getSignString
  | 0x2C => decodeN op arg .setNewData
  | 0x2D => decodeN op arg .clearNewData
  | 0x2E => decodeN op arg .isNewData
  | 0x2F => decodeN op arg .getPacketLength
  | _ => .error (.unassignedOp op)

/-- The `op` column of R68. -/
def Instr.op : Instr → Byte
  | .clk _ => 0x01
  | .sel _ => 0x02
  | .din _ => 0x03
  | .time _ => 0x04
  | .reset => 0x05
  | .beginSession => 0x10
  | .endSession => 0x11
  | .rxBytesAvailable => 0x12
  | .rxBytesRemaining => 0x13
  | .rxHasData => 0x14
  | .rxHasLostData => 0x15
  | .read => 0x16
  | .peek => 0x17
  | .write _ => 0x18
  | .txIsFull => 0x19
  | .getResyncCount => 0x1A
  | .updateLsb _ => 0x20
  | .updateMb _ => 0x21
  | .updateMsb _ => 0x22
  | .updateByte _ _ => 0x23
  | .updateDataBytes _ _ _ => 0x24
  | .refresh => 0x25
  | .getRawMeasurement => 0x26
  | .getMeasurement => 0x27
  | .getUnit => 0x28
  | .getSign => 0x29
  | .getUnitString => 0x2A
  | .getSignString => 0x2B
  | .setNewData => 0x2C
  | .clearNewData => 0x2D
  | .isNewData => 0x2E
  | .getPacketLength => 0x2F

/-- The argument bits of a stimulus, format by format (R66). -/
def Instr.arg : Instr → BitVec 24
  | .clk v => 0#23 ++ BitVec.ofBool v
  | .sel v => 0#23 ++ BitVec.ofBool v
  | .din v => 0#23 ++ BitVec.ofBool v
  | .time dt => BitVec.ofNat 24 dt
  | .reset | .beginSession | .endSession | .rxBytesAvailable | .rxBytesRemaining | .rxHasData
  | .rxHasLostData | .read | .peek | .txIsFull | .getResyncCount | .refresh | .getRawMeasurement
  | .getMeasurement | .getUnit | .getSign | .getUnitString | .getSignString | .setNewData
  | .clearNewData | .isNewData | .getPacketLength => 0
  | .write b => 0#16 ++ b
  | .updateLsb b => 0#16 ++ b
  | .updateMb b => 0#16 ++ b
  | .updateMsb b => 0#16 ++ b
  | .updateByte b index => (0#8 ++ BitVec.ofNat 8 index) ++ b
  | .updateDataBytes msb mb lsb => (msb ++ mb) ++ lsb

/-- The encoder: the word of a well-formed stimulus (R66, R68). -/
def encode (i : Instr) : StimWord := i.op ++ i.arg

/-- The format column of R68. -/
def Instr.format : Instr → Format
  | .clk _ | .sel _ | .din _ => .v
  | .time _ => .t
  | .reset | .beginSession | .endSession | .rxBytesAvailable | .rxBytesRemaining | .rxHasData
  | .rxHasLostData | .read | .peek | .txIsFull | .getResyncCount | .refresh | .getRawMeasurement
  | .getMeasurement | .getUnit | .getSign | .getUnitString | .getSignString | .setNewData
  | .clearNewData | .isNewData | .getPacketLength => .n
  | .write _ | .updateLsb _ | .updateMb _ | .updateMsb _ => .b
  | .updateByte _ _ => .bi
  | .updateDataBytes _ _ _ => .p

/-- The mask of each format: `op` and every must-be-zero bit (R68). -/
def Format.mask : Format → StimWord
  | .n => 0xFFFFFFFF#32
  | .v => 0xFFFFFFFE#32
  | .t => 0xFF000000#32
  | .b => 0xFFFFFF00#32
  | .bi => 0xFFFF0000#32
  | .p => 0xFF000000#32

/-- The agent column of R68 (R7). -/
def Instr.agent : Instr → Agent
  | .clk _ | .sel _ | .din _ | .time _ => .wire
  | .reset => .rst
  | .beginSession | .endSession | .rxBytesAvailable | .rxBytesRemaining | .rxHasData | .rxHasLostData
  | .read | .peek | .write _ | .txIsFull | .getResyncCount | .updateLsb _ | .updateMb _ | .updateMsb _
  | .updateByte _ _ | .updateDataBytes _ _ _ | .refresh | .getRawMeasurement | .getMeasurement
  | .getUnit | .getSign | .getUnitString | .getSignString | .setNewData | .clearNewData | .isNewData
  | .getPacketLength => .host

/-- A row of the opcode table from its `op`, format and mnemonic: `match` is `op << 24` (R68). -/
def tableRow (op : Byte) (f : Format) (mnemonic : String) : TableRow :=
  ⟨mnemonic, op ++ 0#24, f.mask⟩

/-- The opcode map of R68, in its own order: the events, then the slave's host operations. -/
def slaveRows : List TableRow :=
  [tableRow 0x01 .v "CLK", tableRow 0x02 .v "SEL", tableRow 0x03 .v "DIN", tableRow 0x04 .t "TIME",
   tableRow 0x05 .n "RESET", tableRow 0x10 .n "begin", tableRow 0x11 .n "end",
   tableRow 0x12 .n "rxBytesAvailable", tableRow 0x13 .n "rxBytesRemaining", tableRow 0x14 .n "rxHasData",
   tableRow 0x15 .n "rxHasLostData", tableRow 0x16 .n "read", tableRow 0x17 .n "peek",
   tableRow 0x18 .b "write", tableRow 0x19 .n "txIsFull", tableRow 0x1A .n "getResyncCount"]

/-- The opcode map of R68, the decoder's host operations. -/
def decoderRows : List TableRow :=
  [tableRow 0x20 .b "updateLsb", tableRow 0x21 .b "updateMb", tableRow 0x22 .b "updateMsb",
   tableRow 0x23 .bi "updateByte", tableRow 0x24 .p "updateDataBytes", tableRow 0x25 .n "refresh",
   tableRow 0x26 .n "getRawMeasurement", tableRow 0x27 .n "getMeasurement", tableRow 0x28 .n "getUnit",
   tableRow 0x29 .n "getSign", tableRow 0x2A .n "getUnitString", tableRow 0x2B .n "getSignString",
   tableRow 0x2C .n "setNewData", tableRow 0x2D .n "clearNewData", tableRow 0x2E .n "isNewData",
   tableRow 0x2F .n "getPacketLength"]

/-- The whole opcode table, 32 rows (R68). -/
def opcodeTable : List TableRow := slaveRows ++ decoderRows

/-- A word selects a row exactly when `W & mask = match` (R68). -/
def TableRow.selectedBy (r : TableRow) (w : StimWord) : Bool := w &&& r.mask == r.matchBits

/-- The mnemonic of a stimulus (R68, R72): that of the row its word selects. -/
def Instr.mnemonic (i : Instr) : Option String :=
  (opcodeTable.find? (·.selectedBy (encode i))).map (·.mnemonic)

/-- The instruction read from bits numbered as spec/opcode_table.json numbers them: one 32-bit word, bits above `nbits`
zero. The spec stores no word in bytes (log entry 8). -/
def decodeTableWord (nbits w : Nat) : Option Instr :=
  if nbits ≤ 32 then
    match decode (BitVec.ofNat 32 (w % 2 ^ nbits)) with
    | .ok i => some i
    | .error _ => none
  else none

end Sys2Proof
end

