-- ==== Sys2Proof/Machine/State.lean ====
section
/-! DEFINITION. The state of one CCDI core with its environment, as plain data (spec/10_state.md R10 to R31), the
conditions of spec/60_exceptions.md R140, the result values of spec/30_encoding.md R75, the ways a step can stop, and
the state after reset (spec/70_reset_and_hazards.md R160). -/

namespace Sys2Proof.Machine

open Sys2Proof

/-- One packet slot: byte 0 is `lsb`, byte 1 `mb`, byte 2 `msb` (R11, R47). -/
structure Slot where
  lsb : Byte
  mb : Byte
  msb : Byte
  deriving DecidableEq, Repr

/-- The two slots: A is `slot[0]`, B is `slot[1]` (R11). -/
inductive SlotName where
  | a
  | b
  deriving DecidableEq, Repr

/-- The packet decoder (R11 to R13). -/
structure Decoder where
  /-- `slot[0]`, slot A. -/
  slot0 : Slot
  /-- `slot[1]`, slot B. -/
  slot1 : Slot
  /-- `wsel`: the write-target; the other slot is the read-target (R12). -/
  wsel : SlotName
  /-- `new_data`, the dirty flag (R13). -/
  newData : Bool
  deriving DecidableEq, Repr

/-- A ring memory: address and byte, addresses strictly rising, no entry equal to what an unlisted cell reads as
(`Memory.wf`). -/
abbrev Memory := List Host.Cell

/-- A ring: its memory, the index of the oldest byte, and how many bytes it holds (R21, R23). The capacity is a
parameter. -/
structure ByteRing where
  mem : Memory
  head : Nat
  count : Nat
  deriving DecidableEq, Repr

/-- The direction of the data-out pin (R24). -/
inductive Dir where
  | input
  | output
  deriving DecidableEq, Repr

/-- The SPI slave (R14 to R24). -/
structure Slave where
  /-- `rx_shift`, the working receive register (R14). -/
  rxShift : Byte
  /-- `tx_shift`, the working transmit register (R15). -/
  txShift : Byte
  /-- `data_index`, half-bit ticks done of the present byte (R16). -/
  dataIndex : Fin 16
  /-- `last_edge_ms` (R18). -/
  lastEdgeMs : Word32
  /-- `resync_count`, saturating (R19). -/
  resyncCount : Byte
  /-- `active`: both handlers are attached (R20). -/
  active : Bool
  /-- `rx_mem`, `rx_head`, `rx_count` (R21). -/
  rx : ByteRing
  /-- `rx_lost`, sticky (R22). -/
  rxLost : Bool
  /-- `tx_mem`, `tx_head`, `tx_count` (R23). -/
  tx : ByteRing
  /-- `dout_level`, the level last written to the data-out pin (R24). -/
  doutLevel : Level
  /-- `dout_dir` (R24). -/
  doutDir : Dir
  deriving DecidableEq, Repr

/-- The environment: the pins it drives (R25) and its millisecond counter (R26). -/
structure Env where
  pinClk : Level
  pinSel : Level
  pinDin : Level
  nowMs : Word32
  deriving DecidableEq, Repr

/-- The error conditions a step can raise (R140). None stops the machine. -/
inductive Condition where
  | configurationError
  | overflow
  | clockTimeout
  | underflow
  deriving DecidableEq, Repr

/-- The unit field: 0 millimetres, 1 inches (R64). -/
inductive LengthUnit where
  | millimetres
  | inches
  deriving DecidableEq, Repr

/-- The sign field: 0 positive, 1 negative (R64). -/
inductive Sign where
  | positive
  | negative
  deriving DecidableEq, Repr

/-- The value a host operation returns (R75). -/
inductive Result where
  | boolean (v : Bool)
  | number (n : Nat)
  | byte (b : Byte)
  | rational (q : Rat)
  | unit (u : LengthUnit)
  | sign (s : Sign)
  | text (t : String)
  deriving DecidableEq, Repr

/-- The model's own fields: the stimuli still to come and the outputs of the last one (R31; log entries 3 and 4). -/
structure Io where
  /-- The stimulus words the agents have still to give, the next one first. -/
  trace : List StimWord
  /-- What the last stimulus returned, if it returns a value. -/
  result : Option Result
  /-- The conditions the last stimulus raised, in order. -/
  raised : List Condition
  deriving DecidableEq, Repr

/-- The whole state of one instance (R10): parameters, decoder, slave, environment, and the model's own fields. -/
structure State where
  params : Params
  decoder : Decoder
  slave : Slave
  env : Env
  io : Io
  deriving DecidableEq, Repr

/-- Faults: there are none. "All error conditions are recoverable locally; nothing in this core is fatal" (R140), so
no step answers one. Safe: an empty type claims no stop the spec does not give. -/
inductive Fault
  deriving DecidableEq, Repr

/-- Refusals. -/
inductive Refusal where
  /-- Raised by `exec` for an instruction that has no meaning yet. Safe: the model stops where the hardware goes on. -/
  | notModelled (mnemonic : String)
  /-- Raised by `step` when the next stimulus word selects no row of the opcode table: it is not a step of any agent
  and changes no state (R69, R155). Safe: no step is taken. -/
  | illegalStimulus (why : Reject)
  deriving DecidableEq, Repr

/-- What a step answers. -/
abbrev Answer := Host.Outcome State Fault Refusal

/-- A slot of zero bytes (R11). -/
def Slot.zero : Slot := ⟨0#8, 0#8, 0#8⟩

/-- The decoder after reset (R11 to R13, R160). -/
def Decoder.reset : Decoder where
  slot0 := .zero
  slot1 := .zero
  wsel := .a
  newData := false

/-- An empty ring with head 0 (R21, R23, R160). Nothing of its memory is listed: the spec leaves the contents
unspecified. DESIGN CHOICE (log entry 5), unsafe for a claim about cells outside the queue. -/
def ByteRing.empty : ByteRing where
  mem := []
  head := 0
  count := 0

/-- The slave after reset (R14 to R24, R160). -/
def Slave.reset : Slave where
  rxShift := 0#8
  txShift := 0#8
  dataIndex := 0
  lastEdgeMs := 0#32
  resyncCount := 0#8
  active := false
  rx := .empty
  rxLost := false
  tx := .empty
  doutLevel := false
  doutDir := .input

/-- The environment at the start of a run. RESET does not set it (R25, R26); DESIGN CHOICE (log entry 2): the default
start of spec/95_test_vectors.md. Unsafe where a claim rests on it; none does. -/
def Env.start : Env where
  pinClk := false
  pinSel := true
  pinDin := false
  nowMs := 0#32

/-- No stimulus pending and no output yet. DESIGN CHOICE (log entries 3 and 4). -/
def Io.start : Io where
  trace := []
  result := none
  raised := []

/-- The machine right after reset (R160, R161), for the default instance and start environment (log entries 1, 2). -/
def State.reset : State where
  params := .defaults
  decoder := .reset
  slave := .reset
  env := .start
  io := .start

end Sys2Proof.Machine
end

