-- ==== Sys2Proof/Machine/Operands.lean ====
section
/-! DEFINITION. Operand forms: bit position and bit number (spec/30_encoding.md R65), single bits of a byte, the
packet and its fields (R60 to R62), the bytes of a slot (R67, R47), and the codes of the enumerations (R64). -/

namespace Sys2Proof.Machine

open Sys2Proof

/-- `pos(k) = k div 2` (R65). -/
def pos (k : Nat) : Nat := k / 2

/-- `bitnum(p)` for a position 0 to 7 (R65). -/
def bitnum (order : BitOrder) (p : Nat) : Nat :=
  match order with
  | .msbFirst => 7 - p
  | .lsbFirst => p

/-- Bit `n` of a byte. -/
def bitAt (b : Byte) (n : Nat) : Level := b.getLsbD n

/-- Bit `n` of a byte is assigned the level `v`; the other bits keep their values (R90). -/
def assignBit (b : Byte) (n : Nat) (v : Level) : Byte :=
  if v then b ||| (1#8 <<< n) else b &&& ~~~(1#8 <<< n)

/-- `SAMPLE_ON_RISING`: true exactly in clock modes 0 and 3 (R6). -/
def sampleOnRising (p : Params) : Bool :=
  match p.clkMode with
  | .mode0 => true
  | .mode1 => false
  | .mode2 => false
  | .mode3 => true

/-- `{slot[s][2], slot[s][1], slot[s][0]}` (R61). -/
def Slot.packet (s : Slot) : BitVec 24 := (s.msb ++ s.mb) ++ s.lsb

/-- `measurement(P) = P[19:0]` (R62). -/
def packetMeasurement (p : BitVec 24) : BitVec 20 := p.extractLsb' 0 20

/-- `sign(P) = P[20]` (R62, R64). -/
def packetSign (p : BitVec 24) : Sign := if p.getLsbD 20 then .negative else .positive

/-- `reserved(P) = P[22:21]`, which no reader looks at (R62, R63). -/
def packetReserved (p : BitVec 24) : BitVec 2 := p.extractLsb' 21 2

/-- `unit(P) = P[23]` (R62, R64). -/
def packetUnit (p : BitVec 24) : LengthUnit := if p.getLsbD 23 then .inches else .millimetres

/-- Byte `i` of a slot, 0 = `lsb`, 1 = `mb`, 2 = `msb` (R47, R67). -/
def Slot.byteAt (s : Slot) (i : Nat) : Option Byte :=
  match i with
  | 0 => some s.lsb
  | 1 => some s.mb
  | 2 => some s.msb
  | _ => none

/-- Byte `i` of a slot written; an index of 3 or more selects nothing (R67, R123). -/
def Slot.setByte (s : Slot) (i : Nat) (b : Byte) : Slot :=
  match i with
  | 0 => { s with lsb := b }
  | 1 => { s with mb := b }
  | 2 => { s with msb := b }
  | _ => s

/-- `1 - s` (R12). -/
def SlotName.other : SlotName → SlotName
  | .a => .b
  | .b => .a

/-- The code of a unit (R64). -/
def LengthUnit.code : LengthUnit → Nat
  | .millimetres => 0
  | .inches => 1

/-- The code of a sign (R64). -/
def Sign.code : Sign → Nat
  | .positive => 0
  | .negative => 1

/-- The code of a level (R64). -/
def levelCode (v : Level) : Nat := if v then 1 else 0

/-- The code of a direction (R64). -/
def Dir.code : Dir → Nat
  | .input => 0
  | .output => 1

/-- The code of a bit order (R64). -/
def bitOrderCode : BitOrder → Nat
  | .msbFirst => 0
  | .lsbFirst => 1

/-- The code of a clock mode (R64). -/
def clkModeCode : ClkMode → Nat
  | .mode0 => 0
  | .mode1 => 1
  | .mode2 => 2
  | .mode3 => 3

/-- The magnitude in physical units, signed, exact (R127): hundredths of a millimetre or half-thousandths of an
inch. -/
def packetValue (p : BitVec 24) : Rat :=
  let raw : Int := (packetMeasurement p).toNat
  let signed : Int := match packetSign p with
    | .positive => raw
    | .negative => -raw
  match packetUnit p with
  | .millimetres => mkRat signed 100
  | .inches => mkRat signed 2000

/-- The display string of a unit (R130). -/
def LengthUnit.text : LengthUnit → String
  | .millimetres => "mm"
  | .inches => "in"

/-- The display string of a sign (R131). -/
def Sign.text : Sign → String
  | .positive => "+"
  | .negative => "-"

end Sys2Proof.Machine
end

