-- ==== Sys2Proof/Machine/Flags.lean ====
section
/-! DEFINITION. The three flags `new_data`, `rx_lost`, `active` (spec/10_state.md R13, R20, R22, R30), the saturating
counter `resync_count` (R19), and what each error condition does to them (spec/60_exceptions.md R140). -/

namespace Sys2Proof.Machine

open Sys2Proof

/-- `min(c + 1, 255)` on the 8-bit counter (R19, R58, R88). -/
def saturatingSucc (c : Byte) : Byte := BitVec.ofNat 8 (min (c.toNat + 1) 255)

/-- `new_data <- v` (R13). -/
def Decoder.setNewData (d : Decoder) (v : Bool) : Decoder := { d with newData := v }

/-- `rx_lost <- v` (R22). -/
def Slave.setRxLost (sl : Slave) (v : Bool) : Slave := { sl with rxLost := v }

/-- `active <- v` (R20). -/
def Slave.setActive (sl : Slave) (v : Bool) : Slave := { sl with active := v }

/-- Taking an error condition: the state change each one is (R140 to R144). No control is transferred and nothing is
saved (R140, R149): a configuration error and an underflow leave no trace, an overflow sets `rx_lost`, a clock timeout
restarts the byte and counts. -/
def Slave.raise (sl : Slave) (c : Condition) : Slave :=
  match c with
  | .configurationError => sl
  | .overflow => sl.setRxLost true
  | .clockTimeout => { sl with dataIndex := 0, resyncCount := saturatingSucc sl.resyncCount }
  | .underflow => sl

end Sys2Proof.Machine
end

