-- ==== Sys2Proof/Machine/Ops.lean ====
section
/-! DEFINITION. The shared operations: the ring memories (spec/20_memory.md R40, R41), the ring procedures (R42 to
R46), the slot file (spec/10_state.md R11, R12), updates of the state, the outputs of a step, and the next stimulus. -/

namespace Sys2Proof.Machine

open Sys2Proof

/-- What a cell that nothing has written reads as. The spec leaves it unspecified and unobservable (R21, R23, U8).
DESIGN CHOICE 0x00 (log entry 5), unsafe for a claim about cells outside the queue. -/
def Memory.unlisted : Byte := 0#8

/-- `MemRead(S:a, 1)` (R41). -/
def Memory.read (m : Memory) (a : Nat) : Byte :=
  match m with
  | [] => Memory.unlisted
  | (k, v) :: rest => if k = a then v else Memory.read rest a

/-- `MemWrite(S:a, 1, v)` (R41), keeping the canonical form. -/
def Memory.write (m : Memory) (a : Nat) (v : Byte) : Memory :=
  match m with
  | [] => if v = Memory.unlisted then [] else [(a, v)]
  | (k, x) :: rest =>
    if a < k then (if v = Memory.unlisted then (k, x) :: rest else (a, v) :: (k, x) :: rest)
    else if a = k then (if v = Memory.unlisted then rest else (a, v) :: rest)
    else (k, x) :: Memory.write rest a v

/-- The canonical form: addresses strictly rising, no entry equal to what an unlisted cell reads as. -/
abbrev Memory.wf (m : Memory) : Prop :=
  m.Pairwise (fun x y => x.1 < y.1) ∧ ∀ c ∈ m, c.2 ≠ Memory.unlisted

/-- The address of the `j`-th held byte, reduced modulo the capacity before use (R41, R42; log entry 6). -/
def ByteRing.addr (cap : Capacity) (r : ByteRing) (j : Nat) : Nat := (r.head + j) % cap.entries

/-- `tail`, the cell the next push writes; on a full ring the oldest byte's cell (R43). -/
def ByteRing.tail (cap : Capacity) (r : ByteRing) : Nat := r.addr cap r.count

/-- The ring is full, `count = CAP` (R44). -/
def ByteRing.isFull (cap : Capacity) (r : ByteRing) : Bool := r.count == cap.entries

/-- The observable content, oldest byte first (R42). -/
def ByteRing.queue (cap : Capacity) (r : ByteRing) : List Byte :=
  (List.range r.count).map fun j => r.mem.read (r.addr cap j)

/-- `RingPush(S, v)` on the ring's registers (R44); the condition of the receive ring is `receiveByte`'s. -/
def ByteRing.push (cap : Capacity) (r : ByteRing) (v : Byte) : ByteRing :=
  if r.isFull cap then
    { r with mem := r.mem.write (r.addr cap 0) v, head := (r.head + 1) % cap.entries }
  else
    { r with mem := r.mem.write (r.tail cap) v, count := r.count + 1 }

/-- `RingPeek(S)` (R46). -/
def ByteRing.peek (cap : Capacity) (r : ByteRing) : Byte :=
  if r.count = 0 then 0x00#8 else r.mem.read (r.addr cap 0)

/-- `RingPop(S)`: the byte and the ring after it (R45). -/
def ByteRing.pop (cap : Capacity) (r : ByteRing) : Byte × ByteRing :=
  if r.count = 0 then (0x00#8, r)
  else (r.mem.read (r.addr cap 0), { r with head := (r.head + 1) % cap.entries, count := r.count - 1 })

/-- `RingPush(RX, v)`: the push, and `raise Overflow` when the ring was full (R44, R142). -/
def receiveByte (p : Params) (sl : Slave) (v : Byte) : Slave × List Condition :=
  let pushed := { sl with rx := sl.rx.push p.rxCap v }
  if sl.rx.isFull p.rxCap then (pushed.raise .overflow, [.overflow]) else (pushed, [])

/-- `slot[s]` (R11). -/
def Decoder.slot (d : Decoder) (s : SlotName) : Slot :=
  match s with
  | .a => d.slot0
  | .b => d.slot1

/-- `slot[s] <- v` (R11). -/
def Decoder.setSlot (d : Decoder) (s : SlotName) (v : Slot) : Decoder :=
  match s with
  | .a => { d with slot0 := v }
  | .b => { d with slot1 := v }

/-- The write-target slot, `slot[wsel]` (R12). -/
def Decoder.writeTarget (d : Decoder) : Slot := d.slot d.wsel

/-- The read-target slot, `slot[1 - wsel]` (R12). -/
def Decoder.readTarget (d : Decoder) : Slot := d.slot d.wsel.other

/-- `slot[wsel][i] <- b`; an index of 3 or more changes nothing (R120 to R123). -/
def Decoder.writeByte (d : Decoder) (i : Nat) (b : Byte) : Decoder :=
  d.setSlot d.wsel (d.writeTarget.setByte i b)

/-- The packet the readers see, `P(1 - wsel)` (R61, 42_packet_decoder.md section 3). -/
def Decoder.published (d : Decoder) : BitVec 24 := d.readTarget.packet

/-- The activation contract (R100). -/
def activationOk (p : Params) : Bool :=
  p.clkIrqCapable && (p.hasDout || p.hasDin) && (!p.hasDout || (p.hasSel && p.selIrqCapable))

/-- The level the core drives on the data-out line, none while it is released (R24, U14). -/
def Slave.line (sl : Slave) : Option Level :=
  match sl.doutDir with
  | .output => some sl.doutLevel
  | .input => none

/-- `dout_dir <- IN` if there is a data-out pin (R100, R101). -/
def Slave.releaseDout (p : Params) (sl : Slave) : Slave :=
  if p.hasDout then { sl with doutDir := .input } else sl

/-- The slave replaced. -/
def State.withSlave (s : State) (sl : Slave) : State := { s with slave := sl }

/-- The decoder replaced. -/
def State.withDecoder (s : State) (d : Decoder) : State := { s with decoder := d }

/-- The environment replaced. -/
def State.withEnv (s : State) (e : Env) : State := { s with env := e }

/-- The pending stimuli replaced (log entry 3). -/
def State.withTrace (s : State) (ws : List StimWord) : State := { s with io := { s.io with trace := ws } }

/-- The outputs of a stimulus: its result and the conditions it raised (R31, R75, R140; log entry 4). -/
def State.emit (s : State) (r : Option Result) (cs : List Condition) : State :=
  { s with io := { s.io with result := r, raised := cs } }

/-- A stimulus with no result that raises nothing ends. -/
def State.done (s : State) : Answer := .next (s.emit none [])

/-- A stimulus ends with the result `r` (`return r`). -/
def State.answer (s : State) (r : Result) : Answer := .next (s.emit (some r) [])

/-- The next stimulus word and the state that has consumed it, if any is pending (log entry 3). -/
def State.nextStimulus (s : State) : Option (StimWord × State) :=
  match s.io.trace with
  | [] => none
  | w :: rest => some (w, s.withTrace rest)

end Sys2Proof.Machine
end

