-- ==== Sys2Proof/Machine/DecoderOps.lean ====
section
/-! DEFINITION. The host operations of the packet decoder (spec/42_packet_decoder.md R120 to R135). -/

namespace Sys2Proof.Machine

open Sys2Proof

/-- `updateLsb b` (R120). -/
def execUpdateLsb (b : Byte) (s : State) : Answer := (s.withDecoder (s.decoder.writeByte 0 b)).done

/-- `updateMb b` (R121). -/
def execUpdateMb (b : Byte) (s : State) : Answer := (s.withDecoder (s.decoder.writeByte 1 b)).done

/-- `updateMsb b` (R122). -/
def execUpdateMsb (b : Byte) (s : State) : Answer := (s.withDecoder (s.decoder.writeByte 2 b)).done

/-- `updateByte b, index` (R123): an index of 3 or more changes nothing. -/
def execUpdateByte (b : Byte) (index : Nat) (s : State) : Answer :=
  (s.withDecoder (s.decoder.writeByte index b)).done

/-- `updateDataBytes msb, mb, lsb` (R124): all three bytes and the dirty flag, in one step. -/
def execUpdateDataBytes (msb mb lsb : Byte) (s : State) : Answer :=
  (s.withDecoder
    ((((s.decoder.writeByte 2 msb).writeByte 1 mb).writeByte 0 lsb).setNewData true)).done

/-- `refresh` (R125): the slots swap roles and the dirty flag is cleared, unconditionally. -/
def execRefresh (s : State) : Answer :=
  (s.withDecoder ({ s.decoder with wsel := s.decoder.wsel.other }.setNewData false)).done

/-- `getRawMeasurement` (R126). -/
def execGetRawMeasurement (s : State) : Answer :=
  s.answer (.number (packetMeasurement s.decoder.published).toNat)

/-- `getMeasurement` (R127). -/
def execGetMeasurement (s : State) : Answer := s.answer (.rational (packetValue s.decoder.published))

/-- `getUnit` (R128). -/
def execGetUnit (s : State) : Answer := s.answer (.unit (packetUnit s.decoder.published))

/-- `getSign` (R129). -/
def execGetSign (s : State) : Answer := s.answer (.sign (packetSign s.decoder.published))

/-- `getUnitString` (R130). -/
def execGetUnitString (s : State) : Answer := s.answer (.text (packetUnit s.decoder.published).text)

/-- `getSignString` (R131). -/
def execGetSignString (s : State) : Answer := s.answer (.text (packetSign s.decoder.published).text)

/-- `setNewData` (R132). -/
def execSetNewData (s : State) : Answer := (s.withDecoder (s.decoder.setNewData true)).done

/-- `clearNewData` (R133). -/
def execClearNewData (s : State) : Answer := (s.withDecoder (s.decoder.setNewData false)).done

/-- `isNewData` (R134). -/
def execIsNewData (s : State) : Answer := s.answer (.boolean s.decoder.newData)

/-- `getPacketLength`: the constant 3 (R135). -/
def execGetPacketLength (s : State) : Answer := s.answer (.number 3)

end Sys2Proof.Machine
end

