-- ==== Sys2Proof/Machine/Handlers.lean ====
section
/-! DEFINITION. The two edge handlers (spec/40_spi_slave_events.md R84 to R93), each step a definition of its own.
They read the pins and the time of the step they run in (R149) and write the slave only. -/

namespace Sys2Proof.Machine

open Sys2Proof

/-- Step 1's test: a select pin is configured and inactive (R85). -/
def deselected (p : Params) (e : Env) : Bool := p.hasSel && e.pinSel != p.selActive

/-- Step 1's early return (R85). -/
def abandonDeselected (e : Env) (sl : Slave) : Slave := { sl with dataIndex := 0, lastEdgeMs := e.nowMs }

/-- Step 2: the edge is a sample edge, `rising = SAMPLE_ON_RISING`; else it is a shift edge (R86). `rising` is the level
after the change (R84). -/
def isSampleEdge (p : Params) (e : Env) : Bool := e.pinClk == sampleOnRising p

/-- Step 3: at the start of a byte the next outgoing byte, or zeros, is loaded (R87). -/
def loadTransmit (p : Params) (sl : Slave) : Slave :=
  if sl.dataIndex.val ≤ 0 then
    if 0 < sl.tx.count then { sl with txShift := (sl.tx.pop p.txCap).1, tx := (sl.tx.pop p.txCap).2 }
    else { sl with txShift := 0x00#8 }
  else sl

/-- `(t - last_edge_ms) mod 2^32` (R88, R58). -/
def elapsed (e : Env) (sl : Slave) : Word32 := e.nowMs - sl.lastEdgeMs

/-- Step 4's test: mid-byte, a timeout configured, and the pause longer than it (R88). -/
def timedOut (p : Params) (e : Env) (sl : Slave) : Bool :=
  decide (0 < sl.dataIndex.val) && decide (0 < p.maxClkTime.toNat)
    && decide (p.maxClkTime.toNat < (elapsed e sl).toNat)

/-- Step 4: resynchronisation, then `last_edge_ms <- t` (R88). -/
def resynchronise (p : Params) (e : Env) (sl : Slave) : Slave × List Condition :=
  if timedOut p e sl then ({ sl.raise .clockTimeout with lastEdgeMs := e.nowMs }, [.clockTimeout])
  else ({ sl with lastEdgeMs := e.nowMs }, [])

/-- Steps 5 and 6 on a sample edge: bit `bitnum(pos(data_index))` of `rx_shift` is assigned the data-in level (R89,
R90). -/
def sampleBit (p : Params) (e : Env) (sl : Slave) : Slave :=
  if p.hasDin then
    { sl with rxShift := assignBit sl.rxShift (bitnum p.bitOrder (pos sl.dataIndex.val)) e.pinDin }
  else sl

/-- Steps 5 and 6 on a shift edge: the data-out level is the transmit bit of position `pos(data_index + 1)`, 0 outside
the byte (R89, R91). -/
def shiftBit (p : Params) (sl : Slave) : Slave :=
  if p.hasDout then
    if pos (sl.dataIndex.val + 1) ≤ 7 then
      { sl with doutLevel := bitAt sl.txShift (bitnum p.bitOrder (pos (sl.dataIndex.val + 1))) }
    else { sl with doutLevel := false }
  else sl

/-- Step 6: a sample edge samples, a shift edge shifts (R86, R90, R91). -/
def sampleOrShift (p : Params) (e : Env) (sl : Slave) : Slave :=
  if isSampleEdge p e then sampleBit p e sl else shiftBit p sl

/-- Step 7: one tick more; past 15 the completed register is pushed and the counter restarts (R92). -/
def advance (p : Params) (sl : Slave) : Slave × List Condition :=
  if h : sl.dataIndex.val + 1 ≤ 15 then
    ({ sl with dataIndex := ⟨sl.dataIndex.val + 1, by omega⟩ }, [])
  else
    ({ (receiveByte p sl sl.rxShift).1 with dataIndex := 0 }, (receiveByte p sl sl.rxShift).2)

/-- Steps 3 to 7 on an edge while selected (R84). -/
def selectedTick (p : Params) (e : Env) (sl : Slave) : Slave × List Condition :=
  let resynced := resynchronise p e (loadTransmit p sl)
  let advanced := advance p (sampleOrShift p e resynced.1)
  (advanced.1, resynced.2 ++ advanced.2)

/-- `ClockEdgeHandler()` (R84): the slave after it and the conditions raised. -/
def clockEdgeHandler (p : Params) (e : Env) (sl : Slave) : Slave × List Condition :=
  if deselected p e then (abandonDeselected e sl, []) else selectedTick p e sl

/-- `SelectEdgeHandler()` (R93). -/
def selectEdgeHandler (p : Params) (e : Env) (sl : Slave) : Slave :=
  if e.pinSel = p.selActive then
    let driven := { sl with doutDir := .output }
    if 0 < sl.tx.count then
      { driven with doutLevel := bitAt (sl.tx.peek p.txCap) (bitnum p.bitOrder 0) }
    else driven
  else { sl with doutDir := .input }

end Sys2Proof.Machine
end

