-- ==== Sys2Proof/Machine/Events.lean ====
section
/-! DEFINITION. The pin and environment events CLK, SEL, DIN, TIME (spec/40_spi_slave_events.md R80 to R83) and RESET
(spec/70_reset_and_hazards.md R160). -/

namespace Sys2Proof.Machine

open Sys2Proof

/-- `CLK v` (R80): a change of level runs the clock-edge handler while active, inside this step. -/
def execClk (v : Level) (s : State) : Answer :=
  if v = s.env.pinClk then s.done
  else
    let e := { s.env with pinClk := v }
    if s.slave.active then
      let handled := clockEdgeHandler s.params e s.slave
      .next (((s.withEnv e).withSlave handled.1).emit none handled.2)
    else (s.withEnv e).done

/-- `SEL v` (R81): a change of level runs the select-edge handler while active, if there is a data-out pin. -/
def execSel (v : Level) (s : State) : Answer :=
  if v = s.env.pinSel then s.done
  else
    let e := { s.env with pinSel := v }
    if s.slave.active && s.params.hasDout then
      ((s.withEnv e).withSlave (selectEdgeHandler s.params e s.slave)).done
    else (s.withEnv e).done

/-- `DIN v` (R82). -/
def execDin (v : Level) (s : State) : Answer := (s.withEnv { s.env with pinDin := v }).done

/-- `TIME dt` (R83): `now_ms <- (now_ms + dt) mod 2^32`. -/
def execTime (dt : Nat) (s : State) : Answer :=
  (s.withEnv { s.env with nowMs := BitVec.ofNat 32 (s.env.nowMs.toNat + dt) }).done

/-- `RESET` (R160): every element of the core to its reset value; pins, `now_ms` and parameters stay. The ring
memories, which the spec leaves unspecified, are emptied (log entry 5). -/
def execReset (s : State) : Answer := ((s.withDecoder .reset).withSlave .reset).done

end Sys2Proof.Machine
end

