-- ==== Sys2Proof/Machine/SlaveOps.lean ====
section
/-! DEFINITION. The host operations of the SPI slave (spec/41_spi_slave_host_ops.md R100 to R110). -/

namespace Sys2Proof.Machine

open Sys2Proof

/-- `begin` (R100): nothing when already active; silent when the contract fails; else a fresh session. -/
def execBegin (s : State) : Answer :=
  if s.slave.active then s.done
  else if activationOk s.params then
    (s.withSlave (Slave.releaseDout s.params
      { s.slave.setActive true with
        dataIndex := 0, rxShift := 0x00#8, txShift := 0x00#8, lastEdgeMs := s.env.nowMs })).done
  else .next ((s.withSlave (s.slave.raise .configurationError)).emit none [.configurationError])

/-- `end` (R101): both handlers detached, the line released, in every state. -/
def execEnd (s : State) : Answer := (s.withSlave (Slave.releaseDout s.params (s.slave.setActive false))).done

/-- `rxBytesAvailable` (R102). -/
def execRxBytesAvailable (s : State) : Answer := s.answer (.number s.slave.rx.count)

/-- `rxBytesRemaining` (R103). -/
def execRxBytesRemaining (s : State) : Answer :=
  s.answer (.number (s.params.rxCap.entries - s.slave.rx.count))

/-- `rxHasData` (R104). -/
def execRxHasData (s : State) : Answer := s.answer (.boolean (decide (0 < s.slave.rx.count)))

/-- `rxHasLostData` (R105): the flag is read and cleared. -/
def execRxHasLostData (s : State) : Answer :=
  (s.withSlave (s.slave.setRxLost false)).answer (.boolean s.slave.rxLost)

/-- The conditions of an access to the oldest received byte: underflow on an empty ring (R106, R144). -/
def underflowOf (r : ByteRing) : List Condition := if r.count = 0 then [.underflow] else []

/-- `read` (R106): `RingPop(RX)`. -/
def execRead (s : State) : Answer :=
  let popped := s.slave.rx.pop s.params.rxCap
  .next ((s.withSlave { s.slave with rx := popped.2 }).emit (some (.byte popped.1)) (underflowOf s.slave.rx))

/-- `peek` (R107): `RingPeek(RX)`. -/
def execPeek (s : State) : Answer :=
  .next (s.emit (some (.byte (s.slave.rx.peek s.params.rxCap))) (underflowOf s.slave.rx))

/-- `write b` (R108): `RingPush(TX, b)`; a full ring silently loses its oldest byte. -/
def execWrite (b : Byte) (s : State) : Answer :=
  (s.withSlave { s.slave with tx := s.slave.tx.push s.params.txCap b }).done

/-- `txIsFull` (R109). -/
def execTxIsFull (s : State) : Answer := s.answer (.boolean (s.slave.tx.isFull s.params.txCap))

/-- `getResyncCount` (R110). -/
def execGetResyncCount (s : State) : Answer := s.answer (.number s.slave.resyncCount.toNat)

end Sys2Proof.Machine
end

