-- ==== Sys2Proof/Machine/Dispatch.lean ====
section
/-! DEFINITION. The meaning of every stimulus, one arm a constructor (spec/40_spi_slave_events.md R94: a stimulus runs
the operation it names). -/

namespace Sys2Proof.Machine

open Sys2Proof

def exec (i : Instr) (s : State) : Host.Outcome State Fault Refusal :=
  match i with
  | .clk v => Sys2Proof.Machine.execClk v s
  | .sel v => Sys2Proof.Machine.execSel v s
  | .din v => Sys2Proof.Machine.execDin v s
  | .time dt => Sys2Proof.Machine.execTime dt s
  | .reset => Sys2Proof.Machine.execReset s
  | .beginSession => Sys2Proof.Machine.execBegin s
  | .endSession => Sys2Proof.Machine.execEnd s
  | .rxBytesAvailable => Sys2Proof.Machine.execRxBytesAvailable s
  | .rxBytesRemaining => Sys2Proof.Machine.execRxBytesRemaining s
  | .rxHasData => Sys2Proof.Machine.execRxHasData s
  | .rxHasLostData => Sys2Proof.Machine.execRxHasLostData s
  | .read => Sys2Proof.Machine.execRead s
  | .peek => Sys2Proof.Machine.execPeek s
  | .write b => Sys2Proof.Machine.execWrite b s
  | .txIsFull => Sys2Proof.Machine.execTxIsFull s
  | .getResyncCount => Sys2Proof.Machine.execGetResyncCount s
  | .updateLsb b => Sys2Proof.Machine.execUpdateLsb b s
  | .updateMb b => Sys2Proof.Machine.execUpdateMb b s
  | .updateMsb b => Sys2Proof.Machine.execUpdateMsb b s
  | .updateByte b index => Sys2Proof.Machine.execUpdateByte b index s
  | .updateDataBytes msb mb lsb => Sys2Proof.Machine.execUpdateDataBytes msb mb lsb s
  | .refresh => Sys2Proof.Machine.execRefresh s
  | .getRawMeasurement => Sys2Proof.Machine.execGetRawMeasurement s
  | .getMeasurement => Sys2Proof.Machine.execGetMeasurement s
  | .getUnit => Sys2Proof.Machine.execGetUnit s
  | .getSign => Sys2Proof.Machine.execGetSign s
  | .getUnitString => Sys2Proof.Machine.execGetUnitString s
  | .getSignString => Sys2Proof.Machine.execGetSignString s
  | .setNewData => Sys2Proof.Machine.execSetNewData s
  | .clearNewData => Sys2Proof.Machine.execClearNewData s
  | .isNewData => Sys2Proof.Machine.execIsNewData s
  | .getPacketLength => Sys2Proof.Machine.execGetPacketLength s

end Sys2Proof.Machine
end

