-- ==== Sys2Proof/Machine/Step.lean ====
section
/-! DEFINITION. One step of the machine: the next stimulus of the trace is decoded and run, wholly, before the next
(spec/00_scope.md R7, spec/20_memory.md R53). -/

namespace Sys2Proof.Machine

open Sys2Proof

/-- One step. A legal stimulus word is consumed and run; an illegal word is refused and changes nothing (R69, R155).
With no stimulus pending no agent acts and nothing changes (R161: "the core executes nothing by itself"; log entry 3). -/
def step (s : State) : Host.Outcome State Fault Refusal :=
  match s.nextStimulus with
  | none => .next s
  | some (w, s') =>
    match decode w with
    | .ok i => exec i s'
    | .error why => .refused (.illegalStimulus why)

/-- The stimulus word of bits `w`, bits above `nbits` zero, placed where `step` takes its next stimulus: first in the
pending trace (log entry 3). Nothing else changes. -/
def State.withFetchWord (s : State) (nbits w : Nat) : State :=
  s.withTrace (BitVec.ofNat 32 (w % 2 ^ nbits) :: s.io.trace)

end Sys2Proof.Machine
end

