-- ==== Sys2Proof/Machine/Trace.lean ====
section
/-! DEFINITION. Traces of stimuli and the pseudo-stimuli PULSE and XFER, which a trace author expands before encoding
(spec/30_encoding.md R74); claims about several stimuli are stated with them. -/

namespace Sys2Proof.Machine

open Sys2Proof

/-- The stimuli of a list one after the other, stopping at the first that does not answer a next state. -/
def execAll (is : List Instr) (s : State) : Answer :=
  match is with
  | [] => .next s
  | i :: rest =>
    match exec i s with
    | .next t => execAll rest t
    | .fault r => .fault r
    | .refused r => .refused r

/-- `PULSE v`: `CLK v` ; `CLK 1-v` (R74). -/
def pulse (v : Level) : List Instr := [.clk v, .clk (!v)]

/-- One position of `XFER`: the bit of `byte` at position `p` presented, then one clock period (R74). -/
def xferBit (order : BitOrder) (byte : Byte) (v : Level) (p : Nat) : List Instr :=
  .din (bitAt byte (bitnum order p)) :: pulse v

/-- `XFER byte, v`: 24 stimuli (R74). -/
def xfer (order : BitOrder) (byte : Byte) (v : Level) : List Instr :=
  (List.range 8).flatMap (xferBit order byte v)

/-- A clock edge and what comes before it: pauses, in milliseconds, then the level of the data-in pin. -/
structure ClockEdge where
  waits : List Nat
  din : Level
  deriving DecidableEq, Repr

/-- The stimuli of a clock edge to the level `v`: its pauses, its data-in level, the edge. -/
def ClockEdge.stimuli (e : ClockEdge) (v : Level) : List Instr := e.waits.map .time ++ [.din e.din, .clk v]

/-- Clock edges, the first to the level `v`, the levels alternating. -/
def clockTicks (es : List ClockEdge) (v : Level) : List Instr :=
  match es with
  | [] => []
  | e :: rest => e.stimuli v ++ clockTicks rest (!v)

end Sys2Proof.Machine
end

