-- ==== Sys2Proof/Safety.lean ====
section
/-! DEFINITION. The terms claims use: the invariant of spec/10_state.md R29, the observation of R42, the selected and
activatable states, and the host advice of spec/70_reset_and_hazards.md that one state can show. -/

namespace Sys2Proof.Machine

open Sys2Proof

/-- A ring within its bounds (R29): the memory canonical and inside the address space `0 .. CAP-1` (R40),
`head < CAP`, `count <= CAP`. -/
abbrev ByteRing.inBounds (cap : Capacity) (r : ByteRing) : Prop :=
  r.mem.wf ∧ (∀ c ∈ r.mem, c.1 < cap.entries) ∧ r.head < cap.entries ∧ r.count ≤ cap.entries

/-- The invariant of every reachable state (R29), with R100's: an active slave meets the activation contract. The
bounds of `data_index` and `resync_count` are their types. -/
abbrev State.Inv (s : State) : Prop :=
  s.slave.rx.inBounds s.params.rxCap ∧ s.slave.tx.inBounds s.params.txCap
    ∧ (s.slave.doutDir = .output → s.params.hasDout = true)
    ∧ (s.slave.active = false → s.slave.doutDir = .input)
    ∧ (s.slave.active = true → activationOk s.params = true)

/-- Two rings hold the same bytes in the same order (R42). -/
abbrev ByteRing.sameQueue (cap : Capacity) (r r' : ByteRing) : Prop := r.queue cap = r'.queue cap

/-- Two states that differ at most in how the rings hold their queues: "Only the sequence is observable" (R21, R42). -/
abbrev State.sameButCells (s t : State) : Prop :=
  s.params = t.params ∧ s.decoder = t.decoder ∧ s.env = t.env ∧ s.io = t.io
    ∧ { s.slave with rx := ByteRing.empty, tx := ByteRing.empty } = { t.slave with rx := ByteRing.empty, tx := ByteRing.empty }
    ∧ s.slave.rx.sameQueue s.params.rxCap t.slave.rx ∧ s.slave.tx.sameQueue s.params.txCap t.slave.tx

/-- The next clock edge is handled as a tick: active and not deselected (R80, R85). -/
abbrev State.ticking (s : State) : Prop := s.slave.active = true ∧ deselected s.params s.env = false

/-- The next tick finds a byte to abandon: mid-byte, a timeout configured, and the time since the previous edge, modulo
2^32, longer than it (R88). -/
abbrev State.restarts (s : State) : Prop :=
  0 < s.slave.dataIndex.val ∧ 0 < s.params.maxClkTime.toNat
    ∧ s.params.maxClkTime.toNat < (s.env.nowMs.toNat + 2 ^ 32 - s.slave.lastEdgeMs.toNat) % 2 ^ 32

/-- The half-bit count the next tick is handled at: that of step 4 (R88, R89). -/
abbrev State.tickIndex (s : State) : Nat := if s.restarts then 0 else s.slave.dataIndex.val

/-- The pause before a clock edge is no timeout: no timeout is configured, or the whole pause, modulo 2^32, is not longer
than it (R88). -/
abbrev ClockEdge.inTime (p : Params) (e : ClockEdge) : Prop :=
  p.maxClkTime.toNat = 0 ∨ e.waits.sum % 2 ^ 32 ≤ p.maxClkTime.toNat

/-- An edge to the level `v` is a sample edge: rising in clock modes 0 and 3, falling in 1 and 2 (R6, R86). -/
abbrev State.samplesOn (s : State) (v : Level) : Prop :=
  v = decide (s.params.clkMode = .mode0 ∨ s.params.clkMode = .mode3)

/-- `RingPush` on the observable content: appended, on a full ring the oldest byte dropped first (R44). -/
def queuePush (cap : Capacity) (q : List Byte) (v : Byte) : List Byte :=
  if q.length < cap.entries then q ++ [v] else q.tail ++ [v]

/-- The activation contract in the source's words (R100): the clock pin can interrupt, there is a data pin, and a
data-out pin comes with a select pin that can interrupt. -/
abbrev activationContract (p : Params) : Prop :=
  p.clkIrqCapable = true ∧ (p.hasDout = true ∨ p.hasDin = true)
    ∧ (p.hasDout = true → p.hasSel = true ∧ p.selIrqCapable = true)

/-- The host follows the advice that one state can show: it checks `txIsFull` before `write` (R164), `rxHasData` before
`read` or `peek` (R165), `isNewData` before `refresh` (R167). -/
def heedsAdvice (i : Instr) (s : State) : Bool :=
  match i with
  | .write _ => !s.slave.tx.isFull s.params.txCap
  | .read | .peek => decide (0 < s.slave.rx.count)
  | .refresh => s.decoder.newData
  | .clk _ | .sel _ | .din _ | .time _ | .reset | .beginSession | .endSession | .rxBytesAvailable
  | .rxBytesRemaining | .rxHasData | .rxHasLostData | .txIsFull | .getResyncCount | .updateLsb _
  | .updateMb _ | .updateMsb _ | .updateByte _ _ | .updateDataBytes _ _ _ | .getRawMeasurement
  | .getMeasurement | .getUnit | .getSign | .getUnitString | .getSignString | .setNewData
  | .clearNewData | .isNewData | .getPacketLength => true

end Sys2Proof.Machine
end

