-- ==== Sys2Proof/Certificates/Slice0/Obligations.lean ====
section
/-! DEFINITION. The statements about the CCDI core, one `def Obligations.<Name> : Prop` each, from the numbered rules of
spec/. A docstring that says "decision" rests on a choice the spec marks as its own. -/

open Sys2Proof
open Sys2Proof.Machine

/-! ## Encoding and decoding -/

/-- Every stimulus whose operands fit their fields is read back from its word (30_encoding.md sections 3 and 4,
decision D3). -/
def Obligations.EncodeThenDecodeGivesStimulus : Prop :=
  ∀ i : Instr, i.wellFormed = true → decode (encode i) = .ok i

/-- A word the decoder accepts is the word of the stimulus it gives, and that stimulus is well formed: no bit of an
accepted word is ignored (30_encoding.md section 4, decision D3). -/
def Obligations.DecodedWordIsItsEncoding : Prop :=
  ∀ (w : StimWord) (i : Instr), decode w = .ok i → i.wellFormed = true ∧ encode i = w

/-- The decoder follows the opcode table: an accepted word selects one row only, the one of the stimulus's mnemonic; a
refused word selects none (30_encoding.md section 4, decision D3). -/
def Obligations.DecoderFollowsTheOpcodeTable : Prop :=
  ∀ w : StimWord,
    (∀ i, decode w = .ok i →
      ∃ r ∈ opcodeTable, r.selectedBy w = true ∧ i.mnemonic = some r.mnemonic
        ∧ ∀ r' ∈ opcodeTable, r'.selectedBy w = true → r' = r)
    ∧ (∀ why, decode w = .error why → ∀ r ∈ opcodeTable, r.selectedBy w = false)

/-- A few words written out from the spec's encoding decode as the spec says (30_encoding.md section 4, decision D3;
95_test_vectors.md section 2.6). -/
def Obligations.SampleWordsDecode : Prop :=
  decode 0x01000001#32 = .ok (.clk true)
    ∧ decode 0x04FFFFFF#32 = .ok (.time 16777215)
    ∧ decode 0x05000000#32 = .ok .reset
    ∧ decode 0x180000C3#32 = .ok (.write 0xC3#8)
    ∧ decode 0x230003EE#32 = .ok (.updateByte 0xEE#8 3)
    ∧ decode 0x24003039#32 = .ok (.updateDataBytes 0x00#8 0x30#8 0x39#8)
    ∧ decode 0x2A000000#32 = .ok .getUnitString

/-! ## Steps -/

/-- A step consumes the next stimulus word and runs the stimulus it decodes to (00_scope.md section 5). The pending trace
is the model's own (log entry 3). -/
def Obligations.StepRunsTheDecodedStimulus : Prop :=
  ∀ (s : State) (w : StimWord) (rest : List StimWord) (i : Instr),
    s.io.trace = w :: rest → decode w = .ok i →
      step s = exec i { s with io := { s.io with trace := rest } }

/-- A word that selects no row of the opcode table is refused (30_encoding.md section 4, decision D3); the refusal is the
model's name for it (log entry 3). -/
def Obligations.StepRefusesIllegalWords : Prop :=
  ∀ (s : State) (w : StimWord) (rest : List StimWord),
    s.io.trace = w :: rest → (∀ r ∈ opcodeTable, r.selectedBy w = false) →
      ∃ why, step s = .refused (.illegalStimulus why)

/-- With no stimulus pending a step changes nothing: the model's choice (log entry 3), after "the core executes nothing by
itself" (70_reset_and_hazards.md section 1). -/
def Obligations.StepWithoutStimulusIsIdle : Prop :=
  ∀ s : State, s.io.trace = [] → step s = .next s

/-- Every stimulus answers a next state in every state: no condition stops the machine (60_exceptions.md section 1). -/
def Obligations.EveryStimulusCompletes : Prop :=
  ∀ (i : Instr) (s : State), ∃ t, exec i s = .next t

/-! ## Reset -/

/-- `RESET` sets every element of the core to its reset value and leaves the environment, the parameters and the pending
trace (decisions D15 and D19; 70_reset_and_hazards.md section 1). The contents of the ring memories are not stated. -/
def Obligations.ResetStimulusInstallsResetValues : Prop :=
  ∀ s : State, ∃ t, exec .reset s = .next t
    ∧ t.decoder.slot0 = ⟨0#8, 0#8, 0#8⟩ ∧ t.decoder.slot1 = ⟨0#8, 0#8, 0#8⟩
    ∧ t.decoder.wsel = .a ∧ t.decoder.newData = false
    ∧ t.slave.active = false ∧ t.slave.dataIndex = 0 ∧ t.slave.rxShift = 0#8 ∧ t.slave.txShift = 0#8
    ∧ t.slave.lastEdgeMs = 0#32 ∧ t.slave.resyncCount = 0#8
    ∧ t.slave.rx.head = 0 ∧ t.slave.rx.count = 0 ∧ t.slave.rxLost = false
    ∧ t.slave.tx.head = 0 ∧ t.slave.tx.count = 0
    ∧ t.slave.doutLevel = false ∧ t.slave.doutDir = .input
    ∧ t.env = s.env ∧ t.params = s.params ∧ t.io.trace = s.io.trace
    ∧ t.io.result = none ∧ t.io.raised = []

/-- The state after reset meets the invariant (10_state.md section 8). -/
def Obligations.ResetMeetsTheInvariant : Prop := State.Inv State.reset

/-! ## Pin events: what runs no handler -/

/-- `CLK` at the present level, or on an inactive slave, only moves the clock pin (40_spi_slave_events.md section 1,
decision D1). -/
def Obligations.ClkWithoutHandlerOnlyMovesThePin : Prop :=
  ∀ (v : Level) (s : State), v = s.env.pinClk ∨ s.slave.active = false →
    exec (.clk v) s = .next
      { s with env := { s.env with pinClk := v }, io := { s.io with result := none, raised := [] } }

/-- `SEL` at the present level, on an inactive slave, or without a data-out pin, only moves the select pin
(40_spi_slave_events.md section 1, decision D1). -/
def Obligations.SelWithoutHandlerOnlyMovesThePin : Prop :=
  ∀ (v : Level) (s : State),
    v = s.env.pinSel ∨ s.slave.active = false ∨ s.params.hasDout = false →
      exec (.sel v) s = .next
        { s with env := { s.env with pinSel := v }, io := { s.io with result := none, raised := [] } }

/-- `DIN v`, op 0x03 with the level in bit 0, sets the data-in pin and nothing else (R82). -/
def Obligations.DinOnlySetsThePin : Prop :=
  ∀ (v : Level) (s : State),
    decode (0x03#8 ++ 0#23 ++ BitVec.ofBool v) = .ok (.din v)
    ∧ exec (.din v) s = .next
      { s with env := { s.env with pinDin := v }, io := { s.io with result := none, raised := [] } }

/-- `TIME dt` adds `dt` to the millisecond counter modulo 2^32 and changes nothing else (40_spi_slave_events.md section 1,
decision D10). -/
def Obligations.TimeAdvancesTheCounterModulo : Prop :=
  ∀ (dt : Nat) (s : State), ∃ now : Word32,
    now.toNat = (s.env.nowMs.toNat + dt) % 2 ^ 32
      ∧ exec (.time dt) s = .next
        { s with env := { s.env with nowMs := now }, io := { s.io with result := none, raised := [] } }

/-! ## The clock-edge handler -/

/-- A clock edge while deselected restarts the byte and records the time, and nothing else (40_spi_slave_events.md
section 3; that `last_edge_ms` is written here is decision D10). -/
def Obligations.DeselectedEdgeAbandonsTheByte : Prop :=
  ∀ (v : Level) (s : State), v ≠ s.env.pinClk → s.slave.active = true →
    s.params.hasSel = true → s.env.pinSel ≠ s.params.selActive →
      exec (.clk v) s = .next
        { s with
          slave := { s.slave with dataIndex := 0, lastEdgeMs := s.env.nowMs }
          env := { s.env with pinClk := v }
          io := { s.io with result := none, raised := [] } }

/-- A tick answers a next state, records the time, and leaves the decoder, the parameters, the other pins, the counter, the
enable and the direction of the data-out pin (40_spi_slave_events.md section 3). -/
def Obligations.ClkTickFrame : Prop :=
  ∀ (v : Level) (s : State), v ≠ s.env.pinClk → s.ticking →
    ∃ t, exec (.clk v) s = .next t
      ∧ t.slave.lastEdgeMs = s.env.nowMs ∧ t.slave.active = true ∧ t.slave.doutDir = s.slave.doutDir
      ∧ t.decoder = s.decoder ∧ t.params = s.params ∧ t.env = { s.env with pinClk := v }
      ∧ t.io.trace = s.io.trace ∧ t.io.result = none

/-- At the start of a byte the tick dequeues the next outgoing byte into the working transmit register, zeros if there is
none; mid-byte it leaves both alone (40_spi_slave_events.md section 3, decision D8). -/
def Obligations.ClkTickLoadsTheTransmitByte : Prop :=
  ∀ (v : Level) (s : State), v ≠ s.env.pinClk → s.ticking →
    ∃ t, exec (.clk v) s = .next t
      ∧ (s.slave.dataIndex.val = 0 →
          match s.slave.tx.queue s.params.txCap with
          | [] => t.slave.txShift = 0x00#8 ∧ t.slave.tx = s.slave.tx
          | b :: q => t.slave.txShift = b ∧ t.slave.tx.queue s.params.txCap = q)
      ∧ (0 < s.slave.dataIndex.val → t.slave.txShift = s.slave.txShift ∧ t.slave.tx = s.slave.tx)

/-- A pause longer than the timeout in the middle of a byte: the partial byte is not pushed, the counter goes up by one
and stops at 255, the edge is tick 0 of a new byte, and no transmit byte is loaded; no other tick counts
(40_spi_slave_events.md section 3, decisions D9 and D10). -/
def Obligations.ClkTickTimeoutRestartsTheByte : Prop :=
  ∀ (v : Level) (s : State), v ≠ s.env.pinClk → s.ticking →
    ∃ t, exec (.clk v) s = .next t
      ∧ (s.restarts →
          t.slave.resyncCount.toNat = min (s.slave.resyncCount.toNat + 1) 255
            ∧ t.slave.dataIndex.val = 1 ∧ t.slave.rx = s.slave.rx ∧ t.slave.rxLost = s.slave.rxLost
            ∧ t.slave.tx = s.slave.tx ∧ t.slave.txShift = s.slave.txShift
            ∧ t.io.raised = [.clockTimeout])
      ∧ (¬ s.restarts → t.slave.resyncCount = s.slave.resyncCount ∧ .clockTimeout ∉ t.io.raised)

/-- On a sample edge with a data-in pin, the bit of the tick's position takes the data-in level, the other bits of the
receive register stay (assignment: decision D7; odd counts: decision D6); on any other tick the whole register stays
(40_spi_slave_events.md section 3). -/
def Obligations.ClkTickSamplesOneBit : Prop :=
  ∀ (v : Level) (s : State), v ≠ s.env.pinClk → s.ticking →
    ∃ t, exec (.clk v) s = .next t
      ∧ (s.samplesOn v → s.params.hasDin = true →
          ∀ n, n < 8 → bitAt t.slave.rxShift n
            = if n = bitnum s.params.bitOrder (s.tickIndex / 2) then s.env.pinDin
              else bitAt s.slave.rxShift n)
      ∧ (¬ s.samplesOn v ∨ s.params.hasDin = false → t.slave.rxShift = s.slave.rxShift)

/-- On a shift edge with a data-out pin, the data-out level is the transmit bit one half-bit tick ahead, 0 on the last
half-tick of a byte; on any other tick it stays (40_spi_slave_events.md section 3; the bit position is
decision D6). -/
def Obligations.ClkTickDrivesTheNextBit : Prop :=
  ∀ (v : Level) (s : State), v ≠ s.env.pinClk → s.ticking →
    ∃ t, exec (.clk v) s = .next t
      ∧ (¬ s.samplesOn v → s.params.hasDout = true →
          t.slave.doutLevel = if s.tickIndex = 15 then false
            else bitAt t.slave.txShift (bitnum s.params.bitOrder ((s.tickIndex + 1) / 2)))
      ∧ (s.samplesOn v ∨ s.params.hasDout = false → t.slave.doutLevel = s.slave.doutLevel)

/-- A tick advances the half-bit counter; past 15 it pushes the completed receive register, raises the lost flag if the
ring was full, and restarts the counter; before that it leaves the receive ring alone (R92). -/
def Obligations.ClkTickAdvancesAndPushes : Prop :=
  ∀ (v : Level) (s : State), v ≠ s.env.pinClk → s.ticking → s.slave.rx.inBounds s.params.rxCap →
    ∃ t, exec (.clk v) s = .next t
      ∧ (s.tickIndex < 15 →
          t.slave.dataIndex.val = s.tickIndex + 1 ∧ t.slave.rx = s.slave.rx
            ∧ t.slave.rxLost = s.slave.rxLost)
      ∧ (s.tickIndex = 15 →
          t.slave.dataIndex.val = 0
            ∧ t.slave.rx.queue s.params.rxCap
              = queuePush s.params.rxCap (s.slave.rx.queue s.params.rxCap) t.slave.rxShift
            ∧ t.slave.rxLost = (s.slave.rxLost || decide (s.slave.rx.count = s.params.rxCap.entries)))

/-- A byte completed on a full receive ring: the oldest byte is dropped, the new byte is always stored, and the sticky
flag is set (R142). -/
def Obligations.OverflowDropsTheOldestByte : Prop :=
  ∀ (v : Level) (s : State), v ≠ s.env.pinClk → s.ticking → s.slave.rx.inBounds s.params.rxCap →
    s.tickIndex = 15 → s.slave.rx.count = s.params.rxCap.entries →
      ∃ t, exec (.clk v) s = .next t
        ∧ t.slave.rx.queue s.params.rxCap = (s.slave.rx.queue s.params.rxCap).tail ++ [t.slave.rxShift]
        ∧ t.slave.rxLost = true ∧ t.io.raised = [.overflow]

/-- The memory frame of `CLK`: the transmit cells all read as before; the receive cells too, but for the one cell `tail`
on a tick that completes a byte (20_memory.md section 2, derived there from the ring's layout). -/
def Obligations.ClkMemoryFrame : Prop :=
  ∀ (v : Level) (s : State), ∃ t, exec (.clk v) s = .next t
    ∧ (∀ a, t.slave.tx.mem.read a = s.slave.tx.mem.read a)
    ∧ (∀ a, s.slave.rx.tail s.params.rxCap = a → ∀ b, b ≠ a → t.slave.rx.mem.read b = s.slave.rx.mem.read b)
    ∧ (v = s.env.pinClk ∨ ¬ s.ticking ∨ s.tickIndex < 15 →
        ∀ a, t.slave.rx.mem.read a = s.slave.rx.mem.read a)

/-- Sixteen handled edges from the start of a byte, only changes of the data-in pin and pauses between them, any pause
before the first edge and none longer than the timeout before another, push exactly one byte, whose bit `bitnum(p)` is the
data-in level at the sample edge of position `p` (derived: 40_spi_slave_events.md section 3, on decisions D6, D7, D8 and
D10). -/
def Obligations.SixteenTicksPushOneByte : Prop :=
  ∀ (s : State) (es : List ClockEdge), s.ticking → s.slave.rx.inBounds s.params.rxCap →
    s.slave.dataIndex.val = 0 → s.params.hasDin = true → es.length = 16 →
    (∀ e ∈ es.tail, e.inTime s.params) →
      ∃ t, execAll (clockTicks es (!s.env.pinClk)) s = .next t
        ∧ t.slave.dataIndex.val = 0 ∧ t.slave.resyncCount = s.slave.resyncCount
        ∧ t.slave.rx.queue s.params.rxCap
          = queuePush s.params.rxCap (s.slave.rx.queue s.params.rxCap) t.slave.rxShift
        ∧ ∀ p, p < 8 → bitAt t.slave.rxShift (bitnum s.params.bitOrder p)
          = (es.map (·.din)).getD (2 * p + if s.samplesOn (!s.env.pinClk) then 0 else 1) false

/-- `XFER byte, v` with `v` the other level than the clock's clocks that byte into a selected slave at the start of a
byte, in every clock mode and bit order (derived: 30_encoding.md section 5, decision D3). -/
def Obligations.XferClocksTheByteIn : Prop :=
  ∀ (s : State) (b : Byte), s.ticking → s.slave.rx.inBounds s.params.rxCap →
    s.slave.dataIndex.val = 0 → s.params.hasDin = true →
      ∃ t, execAll (xfer s.params.bitOrder b (!s.env.pinClk)) s = .next t
        ∧ t.slave.rxShift = b ∧ t.slave.dataIndex.val = 0
        ∧ t.slave.rx.queue s.params.rxCap
          = queuePush s.params.rxCap (s.slave.rx.queue s.params.rxCap) b

/-- What the far end sees of a transmitted byte, whatever pauses within the timeout lie between its edges. When the first tick of a byte is a shift edge, tick `2n` drives position
`n`, for all eight positions; when it is a sample edge, tick `2n + 1` drives position `n + 1`, and the last one 0, outside
the byte (derived: 40_spi_slave_events.md section 3, on decisions D6, D8 and D10). -/
def Obligations.TransmitByteIsDrivenBitByBit : Prop :=
  ∀ (s : State) (es : List ClockEdge) (n : Nat), s.ticking → s.slave.dataIndex.val = 0 →
    s.params.hasDout = true → n < 8 → (∀ e ∈ es.tail, e.inTime s.params) →
      (¬ s.samplesOn (!s.env.pinClk) → es.length = 2 * n + 1 →
        ∃ t, execAll (clockTicks es (!s.env.pinClk)) s = .next t
          ∧ t.slave.txShift = (s.slave.tx.queue s.params.txCap).headD 0x00#8
          ∧ t.slave.doutLevel = bitAt t.slave.txShift (bitnum s.params.bitOrder n))
      ∧ (s.samplesOn (!s.env.pinClk) → es.length = 2 * n + 2 →
        ∃ t, execAll (clockTicks es (!s.env.pinClk)) s = .next t
          ∧ t.slave.txShift = (s.slave.tx.queue s.params.txCap).headD 0x00#8
          ∧ t.slave.doutLevel = if n = 7 then false
            else bitAt t.slave.txShift (bitnum s.params.bitOrder (n + 1)))

/-! ## The select-edge handler -/

/-- A transition of the select pin to active turns the data-out pin to output and, if a byte is queued, puts its first bit
on the pin; the head byte stays queued and nothing else changes (40_spi_slave_events.md section 4; that the level is kept
with an empty ring is decision D18). -/
def Obligations.SelToActiveDrivesAndPreloads : Prop :=
  ∀ (v : Level) (s : State), v ≠ s.env.pinSel → s.slave.active = true → s.params.hasDout = true →
    v = s.params.selActive →
      exec (.sel v) s = .next
        { s with
          slave := { s.slave with
            doutDir := .output
            doutLevel := match s.slave.tx.queue s.params.txCap with
              | [] => s.slave.doutLevel
              | b :: _ => match s.params.bitOrder with
                | .msbFirst => bitAt b 7
                | .lsbFirst => bitAt b 0 }
          env := { s.env with pinSel := v }
          io := { s.io with result := none, raised := [] } }

/-- A transition of the select pin to inactive turns the data-out pin back to input, and changes nothing else
(40_spi_slave_events.md section 4). -/
def Obligations.SelToInactiveReleasesTheLine : Prop :=
  ∀ (v : Level) (s : State), v ≠ s.env.pinSel → s.slave.active = true → s.params.hasDout = true →
    v ≠ s.params.selActive →
      exec (.sel v) s = .next
        { s with
          slave := { s.slave with doutDir := .input }
          env := { s.env with pinSel := v }
          io := { s.io with result := none, raised := [] } }

/-! ## Host operations of the slave -/

/-- `begin` on an inactive slave whose parameters meet the activation contract starts a fresh session
(41_spi_slave_host_ops.md section 1; what it initialises is decision D16). -/
def Obligations.BeginStartsASession : Prop :=
  ∀ s : State, s.slave.active = false → activationContract s.params →
    exec .beginSession s = .next
      { s with
        slave := { s.slave with
          active := true, dataIndex := 0, rxShift := 0x00#8, txShift := 0x00#8
          lastEdgeMs := s.env.nowMs
          doutDir := if s.params.hasDout then .input else s.slave.doutDir }
        io := { s.io with result := none, raised := [] } }

/-- `begin` on an active slave, or against the contract, changes nothing of the machine; only the latter raises a
configuration error, which leaves no trace but the model's record of it (41_spi_slave_host_ops.md section 1, decision
D16; log entry 4). -/
def Obligations.BeginOtherwiseChangesNothing : Prop :=
  ∀ s : State, s.slave.active = true ∨ ¬ activationContract s.params →
    exec .beginSession s = .next
      { s with io := { s.io with
          result := none, raised := if s.slave.active then [] else [.configurationError] } }

/-- `end` detaches the handlers and turns the data-out pin to input, in every state, and changes nothing else
(41_spi_slave_host_ops.md section 1, decision D17). -/
def Obligations.EndDetachesAndReleases : Prop :=
  ∀ s : State, exec .endSession s = .next
    { s with
      slave := { s.slave with
        active := false, doutDir := if s.params.hasDout then .input else s.slave.doutDir }
      io := { s.io with result := none, raised := [] } }

/-- `rxBytesAvailable`, `rxHasData`, `txIsFull` and `getResyncCount` have these words, return what they are named for and
change nothing (R102, R104, R109; R110 but for its clause on who clears the counter). -/
def Obligations.StatusQueriesOnlyReport : Prop :=
  decode 0x12000000#32 = .ok .rxBytesAvailable ∧ decode 0x14000000#32 = .ok .rxHasData
  ∧ decode 0x19000000#32 = .ok .txIsFull ∧ decode 0x1A000000#32 = .ok .getResyncCount
  ∧ ∀ s : State,
    exec .rxBytesAvailable s = .next
      { s with io := { s.io with result := some (.number s.slave.rx.count), raised := [] } }
    ∧ exec .rxHasData s = .next
      { s with io := { s.io with result := some (.boolean (decide (s.slave.rx.count > 0))), raised := [] } }
    ∧ exec .txIsFull s = .next
      { s with io := { s.io with
          result := some (.boolean (decide (s.slave.tx.count = s.params.txCap.entries))), raised := [] } }
    ∧ exec .getResyncCount s = .next
      { s with io := { s.io with result := some (.number s.slave.resyncCount.toNat), raised := [] } }

/-- `rxBytesRemaining` returns the free entries: with the bytes held they make the capacity (41_spi_slave_host_ops.md
section 2, decision D23). -/
def Obligations.RxBytesRemainingCountsFreeEntries : Prop :=
  ∀ s : State, s.slave.rx.count ≤ s.params.rxCap.entries →
    ∃ n, exec .rxBytesRemaining s = .next
        { s with io := { s.io with result := some (.number n), raised := [] } }
      ∧ n + s.slave.rx.count = s.params.rxCap.entries

/-- `rxHasLostData`, op 0x15, returns the flag and clears it, and changes nothing else (R105). -/
def Obligations.RxHasLostDataReadsAndClears : Prop :=
  decode 0x15000000#32 = .ok .rxHasLostData
  ∧ ∀ s : State, exec .rxHasLostData s = .next
    { s with
      slave := { s.slave with rxLost := false }
      io := { s.io with result := some (.boolean s.slave.rxLost), raised := [] } }

/-- `read` returns and removes the oldest received byte; on an empty ring it returns 0x00, changes nothing and raises an
underflow; no cell of memory and no other register changes (41_spi_slave_host_ops.md section 2, decision D12). -/
def Obligations.ReadDequeuesTheOldestByte : Prop :=
  ∀ s : State, ∃ r : ByteRing,
    (match s.slave.rx.queue s.params.rxCap with
      | [] => r = s.slave.rx
          ∧ exec .read s = .next
            { s with io := { s.io with result := some (.byte 0x00#8), raised := [.underflow] } }
      | b :: q => r.queue s.params.rxCap = q ∧ (∀ a, r.mem.read a = s.slave.rx.mem.read a)
          ∧ exec .read s = .next
            { s with
              slave := { s.slave with rx := r }
              io := { s.io with result := some (.byte b), raised := [] } })

/-- `peek` returns the oldest received byte, 0x00 with an underflow on an empty ring, and changes nothing
(41_spi_slave_host_ops.md section 2, decision D12). -/
def Obligations.PeekReturnsTheOldestByte : Prop :=
  ∀ s : State, exec .peek s = .next
    { s with io := { s.io with
        result := some (.byte ((s.slave.rx.queue s.params.rxCap).headD 0x00#8))
        raised := if s.slave.rx.count = 0 then [.underflow] else [] } }

/-- `write` queues the byte, on a full ring silently dropping the oldest one; the stored cell is `tail`, every other cell
of both memories and every other register stay (41_spi_slave_host_ops.md section 3, decision D13). -/
def Obligations.WriteQueuesTheByte : Prop :=
  ∀ (b : Byte) (s : State), s.slave.tx.inBounds s.params.txCap →
    ∃ r : ByteRing, exec (.write b) s = .next
        { s with slave := { s.slave with tx := r }, io := { s.io with result := none, raised := [] } }
      ∧ r.queue s.params.txCap = queuePush s.params.txCap (s.slave.tx.queue s.params.txCap) b
      ∧ ∀ a, s.slave.tx.tail s.params.txCap = a →
          r.mem.read a = b ∧ ∀ c, c ≠ a → r.mem.read c = s.slave.tx.mem.read c

/-- From an empty transmit ring of capacity N, up to N writes queue the bytes in order; N + 1 writes lose the oldest one
only (20_memory.md section 2; the transmit overwrite is decision D13). -/
def Obligations.WritesQueueInFifoOrder : Prop :=
  ∀ (bs : List Byte) (s : State), s.slave.tx.inBounds s.params.txCap → s.slave.tx.count = 0 →
    ∃ t, execAll (bs.map .write) s = .next t
      ∧ (bs.length ≤ s.params.txCap.entries → t.slave.tx.queue s.params.txCap = bs)
      ∧ (bs.length = s.params.txCap.entries + 1 → t.slave.tx.queue s.params.txCap = bs.tail)

/-! ## Operations of the packet decoder -/

/-- The three named byte writers, ops 0x20 to 0x22 with the byte below, write their byte of the write-target slot and
nothing else (R120, R121, R122). -/
def Obligations.NamedWritersWriteOneByte : Prop :=
  ∀ (b : Byte) (s : State),
    decode (0x20#8 ++ 0#16 ++ b) = .ok (.updateLsb b) ∧ decode (0x21#8 ++ 0#16 ++ b) = .ok (.updateMb b)
    ∧ decode (0x22#8 ++ 0#16 ++ b) = .ok (.updateMsb b)
    ∧ (∃ t, exec (.updateLsb b) s = .next t ∧ t.decoder.writeTarget = { s.decoder.writeTarget with lsb := b }
      ∧ t.decoder.readTarget = s.decoder.readTarget ∧ t.decoder.wsel = s.decoder.wsel
      ∧ t.decoder.newData = s.decoder.newData ∧ t.slave = s.slave ∧ t.env = s.env ∧ t.params = s.params
      ∧ t.io = { s.io with result := none, raised := [] })
    ∧ (∃ t, exec (.updateMb b) s = .next t ∧ t.decoder.writeTarget = { s.decoder.writeTarget with mb := b }
      ∧ t.decoder.readTarget = s.decoder.readTarget ∧ t.decoder.wsel = s.decoder.wsel
      ∧ t.decoder.newData = s.decoder.newData ∧ t.slave = s.slave ∧ t.env = s.env ∧ t.params = s.params
      ∧ t.io = { s.io with result := none, raised := [] })
    ∧ (∃ t, exec (.updateMsb b) s = .next t ∧ t.decoder.writeTarget = { s.decoder.writeTarget with msb := b }
      ∧ t.decoder.readTarget = s.decoder.readTarget ∧ t.decoder.wsel = s.decoder.wsel
      ∧ t.decoder.newData = s.decoder.newData ∧ t.slave = s.slave ∧ t.env = s.env ∧ t.params = s.params
      ∧ t.io = { s.io with result := none, raised := [] })

/-- `updateByte b, index` writes byte `index` of the write-target slot if `index` is 0 to 2, no byte otherwise, and
nothing else (42_packet_decoder.md section 1, decision D5). -/
def Obligations.UpdateByteWritesTheIndexedByte : Prop :=
  ∀ (b : Byte) (index : Nat) (s : State),
    ∃ t, exec (.updateByte b index) s = .next t
      ∧ (∀ (n : SlotName) (j : Nat), (t.decoder.slot n).byteAt j
          = if n = s.decoder.wsel ∧ j = index ∧ index ≤ 2 then some b else (s.decoder.slot n).byteAt j)
      ∧ t.decoder.wsel = s.decoder.wsel ∧ t.decoder.newData = s.decoder.newData
      ∧ t.slave = s.slave ∧ t.env = s.env ∧ t.params = s.params
      ∧ t.io = { s.io with result := none, raised := [] }

/-- `updateDataBytes msb, mb, lsb`, op 0x24 with the three bytes below it in this order, writes all three bytes of the
write-target slot and marks the packet dirty; the read-target slot and all else stay (R124). -/
def Obligations.UpdateDataBytesWritesThePacket : Prop :=
  ∀ (msb mb lsb : Byte) (s : State),
    decode (0x24#8 ++ msb ++ mb ++ lsb) = .ok (.updateDataBytes msb mb lsb)
    ∧ ∃ t, exec (.updateDataBytes msb mb lsb) s = .next t
      ∧ t.decoder.writeTarget = ⟨lsb, mb, msb⟩ ∧ t.decoder.newData = true
      ∧ t.decoder.readTarget = s.decoder.readTarget ∧ t.decoder.wsel = s.decoder.wsel
      ∧ t.slave = s.slave ∧ t.env = s.env ∧ t.params = s.params
      ∧ t.io = { s.io with result := none, raised := [] }

/-- `refresh` swaps the two slots' roles, unconditionally, copies nothing, and clears the dirty flag
(42_packet_decoder.md section 2, decision D20). -/
def Obligations.RefreshSwapsTheSlots : Prop :=
  ∀ s : State, ∃ t, exec .refresh s = .next t
    ∧ t.decoder.readTarget = s.decoder.writeTarget ∧ t.decoder.writeTarget = s.decoder.readTarget
    ∧ t.decoder.slot0 = s.decoder.slot0 ∧ t.decoder.slot1 = s.decoder.slot1
    ∧ t.decoder.newData = false
    ∧ t.slave = s.slave ∧ t.env = s.env ∧ t.params = s.params
    ∧ t.io = { s.io with result := none, raised := [] }

/-- `getRawMeasurement` returns the 20-bit magnitude of the read-target slot and changes nothing; it does not depend on
the four bits above (42_packet_decoder.md section 3; the layout is decision D4). -/
def Obligations.RawMeasurementIsTheLowTwentyBits : Prop :=
  ∀ s : State, exec .getRawMeasurement s = .next
    { s with io := { s.io with
        result := some (.number ((s.decoder.readTarget.lsb.toNat + 256 * s.decoder.readTarget.mb.toNat
          + 65536 * s.decoder.readTarget.msb.toNat) % 2 ^ 20))
        raised := [] } }

/-- `getMeasurement` returns the exact rational `± raw / 100` millimetres or `± raw / 2000` inches and changes nothing
(42_packet_decoder.md section 3, decisions D4 and D21). -/
def Obligations.MeasurementIsTheExactRational : Prop :=
  ∀ s : State, ∃ q : Rat,
    exec .getMeasurement s = .next { s with io := { s.io with result := some (.rational q), raised := [] } }
      ∧ q = (if s.decoder.readTarget.msb.getLsbD 4 then -1 else 1)
          * (((s.decoder.readTarget.lsb.toNat + 256 * s.decoder.readTarget.mb.toNat
                + 65536 * (s.decoder.readTarget.msb.toNat % 16) : Nat) : Rat)
              / (if s.decoder.readTarget.msb.getLsbD 7 then 2000 else 100))

/-- `getUnit`, `getSign` and their strings return the unit bit and the sign bit of the published packet and change nothing
(42_packet_decoder.md section 3; the layout is decision D4). -/
def Obligations.UnitAndSignReaders : Prop :=
  ∀ s : State, ∃ (u : LengthUnit) (g : Sign),
    u.code = (if s.decoder.readTarget.msb.getLsbD 7 then 1 else 0)
    ∧ g.code = (if s.decoder.readTarget.msb.getLsbD 4 then 1 else 0)
    ∧ exec .getUnit s = .next { s with io := { s.io with result := some (.unit u), raised := [] } }
    ∧ exec .getSign s = .next { s with io := { s.io with result := some (.sign g), raised := [] } }
    ∧ exec .getUnitString s = .next
      { s with io := { s.io with
          result := some (.text (if s.decoder.readTarget.msb.getLsbD 7 then "in" else "mm")), raised := [] } }
    ∧ exec .getSignString s = .next
      { s with io := { s.io with
          result := some (.text (if s.decoder.readTarget.msb.getLsbD 4 then "-" else "+")), raised := [] } }

/-- `setNewData`, `clearNewData`, `isNewData` set, clear and read the dirty flag, and `getPacketLength` is 3 in every
state; nothing else changes; their ops are 0x2C to 0x2F (R132, R133, R134, R135). -/
def Obligations.FlagAccessorsAndPacketLength : Prop :=
  decode 0x2C000000#32 = .ok .setNewData ∧ decode 0x2D000000#32 = .ok .clearNewData
  ∧ decode 0x2E000000#32 = .ok .isNewData ∧ decode 0x2F000000#32 = .ok .getPacketLength
  ∧ ∀ s : State,
    exec .setNewData s = .next
      { s with decoder := { s.decoder with newData := true }, io := { s.io with result := none, raised := [] } }
    ∧ exec .clearNewData s = .next
      { s with decoder := { s.decoder with newData := false }, io := { s.io with result := none, raised := [] } }
    ∧ exec .isNewData s = .next
      { s with io := { s.io with result := some (.boolean s.decoder.newData), raised := [] } }
    ∧ exec .getPacketLength s = .next { s with io := { s.io with result := some (.number 3), raised := [] } }

/-- Between two publications every reader sees the same packet, however many other stimuli run (derived:
42_packet_decoder.md section 5). -/
def Obligations.ReadersAreStableBetweenRefreshes : Prop :=
  ∀ (is : List Instr) (s : State), (∀ i ∈ is, i ≠ .refresh ∧ i ≠ .reset) →
    ∃ t, execAll is s = .next t ∧ t.decoder.readTarget = s.decoder.readTarget

/-- The decoder is independent of the slave (R137): its operations (op 0x20 to 0x2F) leave the slave and the environment,
and what they return, raise and do depends on the decoder alone. The slave is independent of the decoder: no other stimulus
but `RESET` touches the decoder, and what the others return, raise and do depends on the parameters, the slave and the
environment alone. -/
def Obligations.DecoderIsIndependentOfTheSlave : Prop :=
  (∀ (i : Instr) (s t : State), 0x20 ≤ i.op.toNat → s.decoder = t.decoder →
    ∃ s' t', exec i s = .next s' ∧ exec i t = .next t'
      ∧ s'.decoder = t'.decoder ∧ s'.io.result = t'.io.result ∧ s'.io.raised = t'.io.raised
      ∧ s'.slave = s.slave ∧ s'.env = s.env ∧ t'.slave = t.slave ∧ t'.env = t.env)
  ∧ (∀ (i : Instr) (s : State), i.op.toNat < 0x20 → i ≠ .reset →
    ∃ t, exec i s = .next t ∧ t.decoder = s.decoder)
  ∧ (∀ (i : Instr) (s t : State), i.op.toNat < 0x20 →
    s.params = t.params → s.slave = t.slave → s.env = t.env →
      ∃ s' t', exec i s = .next s' ∧ exec i t = .next t'
        ∧ s'.slave = t'.slave ∧ s'.env = t'.env ∧ s'.io.result = t'.io.result ∧ s'.io.raised = t'.io.raised)

/-! ## Rules of the whole machine -/

/-- Every step keeps the invariant: both ring memories canonical and inside their address space, heads and counts within
the capacity, the data-out pin an output only with a data-out pin and only while active, an active slave within the
activation contract (derived: 10_state.md section 8). -/
def Obligations.StepKeepsTheInvariant : Prop :=
  ∀ s t : State, s.Inv → step s = .next t → t.Inv

/-- Only the queues of the rings are observable: two states within bounds that differ only in how the rings hold their
queues answer every stimulus with the same result, the same conditions, and again such a pair (10_state.md section 5 and
93_implementation_defined.md U8; ring memories are unspecified outside the queue, log entry 5). -/
def Obligations.OnlyTheQueuesAreObservable : Prop :=
  ∀ (i : Instr) (s t : State), s.sameButCells t →
    s.slave.rx.inBounds s.params.rxCap → s.slave.tx.inBounds s.params.txCap →
    t.slave.rx.inBounds t.params.rxCap → t.slave.tx.inBounds t.params.txCap →
      ∃ s' t', exec i s = .next s' ∧ exec i t = .next t' ∧ s'.sameButCells t'

/-- While the slave is inactive no sequence of pin events and time changes the slave or the decoder (derived:
40_spi_slave_events.md section 3). -/
def Obligations.InactiveSlaveIsInert : Prop :=
  ∀ (is : List Instr) (s : State), s.slave.active = false → (∀ i ∈ is, i.agent = .wire) →
    ∃ t, execAll is s = .next t ∧ t.slave = s.slave ∧ t.decoder = s.decoder

/-- No stimulus changes a parameter (00_scope.md section 4, decision D24; carrying them in the state is log entry 1). -/
def Obligations.NoStimulusChangesTheParameters : Prop :=
  ∀ (i : Instr) (s t : State), exec i s = .next t → t.params = s.params

/-- Only pin events and time move the pins and the millisecond counter (10_state.md section 6, decision D15 for
`RESET`). -/
def Obligations.OnlyTheWireMovesTheEnvironment : Prop :=
  ∀ (i : Instr) (s t : State), exec i s = .next t → i.agent ≠ .wire → t.env = s.env

/-- `active` is set by `begin` only and cleared by `end` and `RESET` only (10_state.md section 3). -/
def Obligations.OnlySessionOperationsChangeActive : Prop :=
  ∀ (i : Instr) (s t : State), exec i s = .next t → t.slave.active ≠ s.slave.active →
    (i = .beginSession ∧ t.slave.active = true)
      ∨ ((i = .endSession ∨ i = .reset) ∧ t.slave.active = false)

/-- The lost flag is sticky: only `rxHasLostData` and `RESET` clear it, and only a byte completed by `CLK` on a full ring
sets it (10_state.md section 3). -/
def Obligations.LostFlagIsSticky : Prop :=
  ∀ (i : Instr) (s t : State), exec i s = .next t →
    (s.slave.rxLost = true → t.slave.rxLost = false → i = .rxHasLostData ∨ i = .reset)
    ∧ (s.slave.rxLost = false → t.slave.rxLost = true →
        (∃ v, i = .clk v) ∧ s.slave.rx.count = s.params.rxCap.entries ∧ t.io.raised = [.overflow])

/-- The resynchronisation counter never goes down but by `RESET`, goes up by at most one, and only with a clock timeout
raised by `CLK` (10_state.md section 4, decision D9). -/
def Obligations.ResyncCountOnlyCountsTimeouts : Prop :=
  ∀ (i : Instr) (s t : State), exec i s = .next t → i ≠ .reset →
    t.slave.resyncCount = s.slave.resyncCount
      ∨ (t.slave.resyncCount.toNat = s.slave.resyncCount.toNat + 1 ∧ (∃ v, i = .clk v)
          ∧ t.io.raised = [.clockTimeout])

/-- One stimulus raises at most one condition; in particular a timeout and an overflow never meet on one edge (derived:
60_exceptions.md section 2). -/
def Obligations.AtMostOneConditionAStimulus : Prop :=
  ∀ (i : Instr) (s t : State), exec i s = .next t → t.io.raised.length ≤ 1

/-- Producers and consumers: only `CLK` writes a receive cell and only `write` writes a transmit cell, `RESET` aside,
whose effect on the cells the spec leaves unspecified (20_memory.md section 5; log entry 5). -/
def Obligations.OnlyProducersStoreToTheRings : Prop :=
  ∀ (i : Instr) (s t : State), exec i s = .next t → i ≠ .reset →
    ((∀ v, i ≠ .clk v) → ∀ a, t.slave.rx.mem.read a = s.slave.rx.mem.read a)
    ∧ ((∀ b, i ≠ .write b) → ∀ a, t.slave.tx.mem.read a = s.slave.tx.mem.read a)

/-- A host that checks before it acts loses and misreads nothing: a `write` after `txIsFull` answered no keeps every
queued byte, a `read` or `peek` after `rxHasData` answered yes raises no underflow, a `refresh` while `isNewData` publishes
the write-target slot (derived: 70_reset_and_hazards.md section 3). -/
def Obligations.HeedfulHostLosesNothing : Prop :=
  ∀ (i : Instr) (s t : State), s.slave.tx.inBounds s.params.txCap → heedsAdvice i s = true → exec i s = .next t →
    (∀ b, i = .write b → t.slave.tx.queue s.params.txCap = s.slave.tx.queue s.params.txCap ++ [b])
    ∧ (i = .read ∨ i = .peek → t.io.raised = []
        ∧ ∃ b q, s.slave.rx.queue s.params.rxCap = b :: q ∧ t.io.result = some (.byte b))
    ∧ (i = .refresh → s.decoder.newData = true ∧ t.decoder.readTarget = s.decoder.writeTarget)
end

