-- ==== Sys2Proof/Laws/State.lean ====
section
/-! SUPPORT. What each update of the state leaves and what it sets, one field a lemma, so that no proof unfolds a record
update. -/

namespace Sys2Proof.Machine

open Sys2Proof

@[simp] theorem withSlave_params (s : State) (sl : Slave) : (s.withSlave sl).params = s.params := rfl
@[simp] theorem withSlave_decoder (s : State) (sl : Slave) : (s.withSlave sl).decoder = s.decoder := rfl
@[simp] theorem withSlave_slave (s : State) (sl : Slave) : (s.withSlave sl).slave = sl := rfl
@[simp] theorem withSlave_env (s : State) (sl : Slave) : (s.withSlave sl).env = s.env := rfl
@[simp] theorem withSlave_io (s : State) (sl : Slave) : (s.withSlave sl).io = s.io := rfl
@[simp] theorem withSlave_self (s : State) : s.withSlave s.slave = s := rfl

@[simp] theorem withDecoder_params (s : State) (d : Decoder) : (s.withDecoder d).params = s.params := rfl
@[simp] theorem withDecoder_decoder (s : State) (d : Decoder) : (s.withDecoder d).decoder = d := rfl
@[simp] theorem withDecoder_slave (s : State) (d : Decoder) : (s.withDecoder d).slave = s.slave := rfl
@[simp] theorem withDecoder_env (s : State) (d : Decoder) : (s.withDecoder d).env = s.env := rfl
@[simp] theorem withDecoder_io (s : State) (d : Decoder) : (s.withDecoder d).io = s.io := rfl

@[simp] theorem withEnv_params (s : State) (e : Env) : (s.withEnv e).params = s.params := rfl
@[simp] theorem withEnv_decoder (s : State) (e : Env) : (s.withEnv e).decoder = s.decoder := rfl
@[simp] theorem withEnv_slave (s : State) (e : Env) : (s.withEnv e).slave = s.slave := rfl
@[simp] theorem withEnv_env (s : State) (e : Env) : (s.withEnv e).env = e := rfl
@[simp] theorem withEnv_io (s : State) (e : Env) : (s.withEnv e).io = s.io := rfl

@[simp] theorem withTrace_params (s : State) (ws : List StimWord) : (s.withTrace ws).params = s.params := rfl
@[simp] theorem withTrace_decoder (s : State) (ws : List StimWord) : (s.withTrace ws).decoder = s.decoder := rfl
@[simp] theorem withTrace_slave (s : State) (ws : List StimWord) : (s.withTrace ws).slave = s.slave := rfl
@[simp] theorem withTrace_env (s : State) (ws : List StimWord) : (s.withTrace ws).env = s.env := rfl
@[simp] theorem withTrace_trace (s : State) (ws : List StimWord) : (s.withTrace ws).io.trace = ws := rfl
@[simp] theorem withTrace_result (s : State) (ws : List StimWord) :
    (s.withTrace ws).io.result = s.io.result := rfl
@[simp] theorem withTrace_raised (s : State) (ws : List StimWord) :
    (s.withTrace ws).io.raised = s.io.raised := rfl

section Emit
variable (s : State) (r : Option Result) (cs : List Condition)
@[simp] theorem emit_params : (s.emit r cs).params = s.params := rfl
@[simp] theorem emit_decoder : (s.emit r cs).decoder = s.decoder := rfl
@[simp] theorem emit_slave : (s.emit r cs).slave = s.slave := rfl
@[simp] theorem emit_env : (s.emit r cs).env = s.env := rfl
@[simp] theorem emit_trace : (s.emit r cs).io.trace = s.io.trace := rfl
@[simp] theorem emit_result : (s.emit r cs).io.result = r := rfl
@[simp] theorem emit_raised : (s.emit r cs).io.raised = cs := rfl
end Emit

section Raise
variable (sl : Slave)
@[simp] theorem raise_configurationError : sl.raise .configurationError = sl := rfl
@[simp] theorem raise_underflow : sl.raise .underflow = sl := rfl
@[simp] theorem raise_overflow : sl.raise .overflow = { sl with rxLost := true } := rfl
@[simp] theorem raise_clockTimeout : sl.raise .clockTimeout
    = { sl with dataIndex := 0, resyncCount := saturatingSucc sl.resyncCount } := rfl
end Raise

/-- The saturating counter, on numbers (R58). -/
theorem saturatingSucc_toNat (c : Byte) : (saturatingSucc c).toNat = min (c.toNat + 1) 255 := by
  have := c.isLt
  simp only [saturatingSucc, BitVec.toNat_ofNat]
  omega

section SlotFile
variable (d : Decoder)
@[simp] theorem setSlot_wsel (n : SlotName) (v : Slot) : (d.setSlot n v).wsel = d.wsel := by cases n <;> rfl
@[simp] theorem setSlot_newData (n : SlotName) (v : Slot) : (d.setSlot n v).newData = d.newData := by
  cases n <;> rfl
@[simp] theorem setSlot_slot_same (n : SlotName) (v : Slot) : (d.setSlot n v).slot n = v := by cases n <;> rfl
@[simp] theorem setSlot_slot_other (n : SlotName) (v : Slot) :
    (d.setSlot n v).slot n.other = d.slot n.other := by cases n <;> rfl
@[simp] theorem other_other (n : SlotName) : n.other.other = n := by cases n <;> rfl
@[simp] theorem writeByte_wsel (i : Nat) (b : Byte) : (d.writeByte i b).wsel = d.wsel := by
  simp [Decoder.writeByte]
@[simp] theorem writeByte_newData (i : Nat) (b : Byte) : (d.writeByte i b).newData = d.newData := by
  simp [Decoder.writeByte]
/-- A byte write changes the write-target slot only in the byte named (R120 to R123). -/
theorem writeByte_writeTarget (i : Nat) (b : Byte) :
    (d.writeByte i b).writeTarget = d.writeTarget.setByte i b := by
  unfold Decoder.writeByte Decoder.writeTarget
  simp
/-- A byte write never touches the read-target slot (R120). -/
@[simp] theorem writeByte_readTarget (i : Nat) (b : Byte) : (d.writeByte i b).readTarget = d.readTarget := by
  unfold Decoder.writeByte Decoder.readTarget
  simp
end SlotFile

end Sys2Proof.Machine
end

