-- ==== Sys2Proof/Laws/Handlers.lean ====
section
/-! SUPPORT. What each step of the clock-edge handler can do, said once (spec/40_spi_slave_events.md R84 to R93). -/

namespace Sys2Proof.Machine

open Sys2Proof

/-- Step 3 writes `tx_shift` and the transmit ring only, and the ring only by a pop (R87). -/
theorem loadTransmit_cases (p : Params) (sl : Slave) :
    loadTransmit p sl = sl
      ∨ loadTransmit p sl = { sl with txShift := 0#8 }
      ∨ loadTransmit p sl = { sl with txShift := (sl.tx.pop p.txCap).1, tx := (sl.tx.pop p.txCap).2 } := by
  unfold loadTransmit
  split
  · split
    · exact .inr (.inr rfl)
    · exact .inr (.inl rfl)
  · exact .inl rfl

/-- Step 4 either abandons the byte and counts, or only records the time (R88). -/
theorem resynchronise_cases (p : Params) (e : Env) (sl : Slave) :
    (timedOut p e sl = true ∧ resynchronise p e sl
        = ({ sl with dataIndex := 0, resyncCount := saturatingSucc sl.resyncCount, lastEdgeMs := e.nowMs },
           [.clockTimeout]))
      ∨ (timedOut p e sl = false ∧ resynchronise p e sl = ({ sl with lastEdgeMs := e.nowMs }, [])) := by
  unfold resynchronise
  cases h : timedOut p e sl
  · exact .inr ⟨rfl, by simp⟩
  · exact .inl ⟨rfl, by simp⟩

/-- Step 6 writes `rx_shift` on a sample edge, `dout_level` on a shift edge, and nothing else (R90, R91). -/
theorem sampleOrShift_cases (p : Params) (e : Env) (sl : Slave) :
    (isSampleEdge p e = true ∧ ∃ b, sampleOrShift p e sl = { sl with rxShift := b })
      ∨ (isSampleEdge p e = false ∧ ∃ v, sampleOrShift p e sl = { sl with doutLevel := v }) := by
  unfold sampleOrShift
  cases h : isSampleEdge p e
  · refine .inr ⟨rfl, ?_⟩
    simp only [Bool.false_eq_true, if_false, shiftBit]
    split
    · split
      · exact ⟨_, rfl⟩
      · exact ⟨_, rfl⟩
    · exact ⟨sl.doutLevel, rfl⟩
  · refine .inl ⟨rfl, ?_⟩
    simp only [if_true, sampleBit]
    split
    · exact ⟨_, rfl⟩
    · exact ⟨sl.rxShift, rfl⟩

/-- The push of step 7: the receive ring, and on a full ring the lost flag (R44, R142). -/
theorem receiveByte_cases (p : Params) (sl : Slave) (v : Byte) :
    (sl.rx.isFull p.rxCap = true ∧ receiveByte p sl v
        = ({ sl with rx := sl.rx.push p.rxCap v, rxLost := true }, [.overflow]))
      ∨ (sl.rx.isFull p.rxCap = false ∧ receiveByte p sl v = ({ sl with rx := sl.rx.push p.rxCap v }, [])) := by
  unfold receiveByte
  cases h : sl.rx.isFull p.rxCap
  · exact .inr ⟨rfl, by simp⟩
  · exact .inl ⟨rfl, by simp⟩

/-- Step 7 either counts one tick, or pushes and restarts (R92). -/
theorem advance_cases (p : Params) (sl : Slave) :
    (∃ h : sl.dataIndex.val + 1 < 16,
        advance p sl = ({ sl with dataIndex := ⟨sl.dataIndex.val + 1, h⟩ }, []))
      ∨ (sl.dataIndex.val = 15 ∧ advance p sl
        = ({ (receiveByte p sl sl.rxShift).1 with dataIndex := 0 }, (receiveByte p sl sl.rxShift).2)) := by
  unfold advance
  have := sl.dataIndex.isLt
  by_cases h : sl.dataIndex.val + 1 ≤ 15
  · exact .inl ⟨by omega, by simp [h]⟩
  · exact .inr ⟨by omega, by simp [h]⟩

/-- The select-edge handler writes the data-out registers only (R93). -/
theorem selectEdgeHandler_cases (p : Params) (e : Env) (sl : Slave) :
    (e.pinSel = p.selActive
        ∧ ∃ v, selectEdgeHandler p e sl = { sl with doutDir := .output, doutLevel := v })
      ∨ (e.pinSel ≠ p.selActive ∧ selectEdgeHandler p e sl = { sl with doutDir := .input }) := by
  unfold selectEdgeHandler
  by_cases h : e.pinSel = p.selActive
  · refine .inl ⟨h, ?_⟩
    simp only [h, if_true]
    split
    · exact ⟨_, rfl⟩
    · exact ⟨sl.doutLevel, rfl⟩
  · exact .inr ⟨h, by simp [h]⟩

/-- A bit of a byte after one of its bits is assigned (R90). -/
theorem bitAt_assignBit (b : Byte) {n : Nat} (hn : n < 8) (v : Level) (m : Nat) :
    bitAt (assignBit b n v) m = if m = n then v else bitAt b m := by
  unfold bitAt assignBit
  by_cases hm : m < 8
  · by_cases h : m = n
    · subst h
      cases v <;> simp [hm]
    · cases v <;> simp [h, hm] <;> omega
  · have h : m ≠ n := by omega
    rw [BitVec.getLsbD_of_ge _ _ (by omega), BitVec.getLsbD_of_ge _ _ (by omega), if_neg h]

end Sys2Proof.Machine
end

