-- ==== Sys2Proof/Laws/PerInstr.lean ====
section
/-! SUPPORT. Facts about every stimulus as syntax, one lemma a constructor: its word selects its own row of the opcode
table (spec/30_encoding.md R68). -/

namespace Sys2Proof.Laws.SelectsItsRow

open Sys2Proof

/-- The word of `i` under the mask of its format is the row's `match`, `op << 24` (R68). -/
def Statement (i : Instr) : Prop := encode i &&& i.format.mask = i.op ++ 0#24

/-- Under a mask that keeps `op`, only the argument part of the mask matters. -/
theorem masked_op (op : Byte) (arg keep : BitVec 24) (h : arg &&& keep = 0#24) :
    (op ++ arg) &&& (0xFF#8 ++ keep) = op ++ 0#24 := by
  rw [BitVec.and_append, h, show (0xFF#8 : Byte) = BitVec.allOnes 8 from rfl, BitVec.and_allOnes]

/-- Format B: the zero bits of the argument are zero (R66). -/
theorem byte_argument (b : Byte) : (0#16 ++ b) &&& (0xFFFF#16 ++ 0x00#8) = 0#24 := by
  rw [BitVec.and_append]
  simp

/-- Format BI: the zero bits of the argument are zero (R66). -/
theorem indexed_argument (b index : Byte) : ((0#8 ++ index) ++ b) &&& ((0xFF#8 ++ 0x00#8) ++ 0x00#8) = 0#24 := by
  rw [BitVec.and_append, BitVec.and_append]
  simp

theorem clk (v : Level) : Statement (.clk v) := by cases v <;> rfl
theorem sel (v : Level) : Statement (.sel v) := by cases v <;> rfl
theorem din (v : Level) : Statement (.din v) := by cases v <;> rfl
theorem time (dt : Nat) : Statement (.time dt) := masked_op _ _ 0#24 (by simp)
theorem reset : Statement .reset := rfl
theorem beginSession : Statement .beginSession := rfl
theorem endSession : Statement .endSession := rfl
theorem rxBytesAvailable : Statement .rxBytesAvailable := rfl
theorem rxBytesRemaining : Statement .rxBytesRemaining := rfl
theorem rxHasData : Statement .rxHasData := rfl
theorem rxHasLostData : Statement .rxHasLostData := rfl
theorem read : Statement .read := rfl
theorem peek : Statement .peek := rfl
theorem write (b : Byte) : Statement (.write b) := masked_op _ _ _ (byte_argument b)
theorem txIsFull : Statement .txIsFull := rfl
theorem getResyncCount : Statement .getResyncCount := rfl
theorem updateLsb (b : Byte) : Statement (.updateLsb b) := masked_op _ _ _ (byte_argument b)
theorem updateMb (b : Byte) : Statement (.updateMb b) := masked_op _ _ _ (byte_argument b)
theorem updateMsb (b : Byte) : Statement (.updateMsb b) := masked_op _ _ _ (byte_argument b)
theorem updateByte (b : Byte) (index : Nat) : Statement (.updateByte b index) :=
  masked_op _ _ _ (indexed_argument b _)
theorem updateDataBytes (msb mb lsb : Byte) : Statement (.updateDataBytes msb mb lsb) :=
  masked_op _ _ 0#24 (by simp)
theorem refresh : Statement .refresh := rfl
theorem getRawMeasurement : Statement .getRawMeasurement := rfl
theorem getMeasurement : Statement .getMeasurement := rfl
theorem getUnit : Statement .getUnit := rfl
theorem getSign : Statement .getSign := rfl
theorem getUnitString : Statement .getUnitString := rfl
theorem getSignString : Statement .getSignString := rfl
theorem setNewData : Statement .setNewData := rfl
theorem clearNewData : Statement .clearNewData := rfl
theorem isNewData : Statement .isNewData := rfl
theorem getPacketLength : Statement .getPacketLength := rfl

end Sys2Proof.Laws.SelectsItsRow
end

