-- ==== Sys2Proof/Laws/Ring.lean ====
section
/-! SUPPORT. The ring procedures: their addresses, and the bounds they keep (spec/20_memory.md R43 to R45). -/

namespace Sys2Proof.Machine

open Sys2Proof

/-- Every address used lies in the address space (R41). -/
theorem ByteRing.addr_lt (cap : Capacity) (r : ByteRing) (j : Nat) : r.addr cap j < cap.entries :=
  Nat.mod_lt _ cap.isPos

/-- On a full ring the next free cell is the oldest byte's (R43). -/
theorem ByteRing.tail_of_full {cap : Capacity} {r : ByteRing} (h : r.isFull cap = true) : r.tail cap = r.addr cap 0 := by
  have : r.count = cap.entries := by simpa [ByteRing.isFull] using h
  simp [ByteRing.tail, ByteRing.addr, this]

/-- What a push can do: it writes the cell `tail`, and then either the head moves (full) or the count grows. -/
theorem ByteRing.push_cases (cap : Capacity) (r : ByteRing) (v : Byte) :
    (r.count = cap.entries ∧ r.push cap v
        = { mem := r.mem.write (r.tail cap) v, head := (r.head + 1) % cap.entries, count := r.count })
      ∨ (r.count ≠ cap.entries ∧ r.push cap v
        = { mem := r.mem.write (r.tail cap) v, head := r.head, count := r.count + 1 }) := by
  by_cases h : r.isFull cap = true
  · refine .inl ⟨by simpa [ByteRing.isFull] using h, ?_⟩
    simp [ByteRing.push, h, ByteRing.tail_of_full h]
  · refine .inr ⟨by simpa [ByteRing.isFull] using h, ?_⟩
    simp [ByteRing.push, h]

/-- What a pop can do: nothing on an empty ring, else the oldest byte leaves; the memory is never written (R45). -/
theorem ByteRing.pop_cases (cap : Capacity) (r : ByteRing) :
    (r.count = 0 ∧ r.pop cap = (0#8, r))
      ∨ (r.count ≠ 0 ∧ r.pop cap = (r.mem.read (r.addr cap 0),
          { mem := r.mem, head := (r.head + 1) % cap.entries, count := r.count - 1 })) := by
  by_cases h : r.count = 0
  · exact .inl ⟨h, by simp [ByteRing.pop, h]⟩
  · exact .inr ⟨h, by simp [ByteRing.pop, h]⟩

@[simp] theorem ByteRing.pop_mem (cap : Capacity) (r : ByteRing) : (r.pop cap).2.mem = r.mem := by
  rcases ByteRing.pop_cases cap r with ⟨_, h⟩ | ⟨_, h⟩ <;> rw [h]

@[simp] theorem ByteRing.push_mem (cap : Capacity) (r : ByteRing) (v : Byte) :
    (r.push cap v).mem = r.mem.write (r.tail cap) v := by
  rcases ByteRing.push_cases cap r v with ⟨_, h⟩ | ⟨_, h⟩ <;> rw [h]

theorem ByteRing.empty_inBounds (cap : Capacity) : ByteRing.empty.inBounds cap :=
  ⟨Memory.wf_nil, by simp [ByteRing.empty], cap.isPos, Nat.zero_le _⟩

/-- A push keeps the ring within its bounds. -/
theorem ByteRing.push_inBounds {cap : Capacity} {r : ByteRing} (h : r.inBounds cap) (v : Byte) :
    (r.push cap v).inBounds cap := by
  obtain ⟨hwf, hin, hhead, hcount⟩ := h
  have hm : Memory.wf (r.mem.write (r.tail cap) v) := Memory.write_wf hwf _ _
  have hi := Memory.write_inside hin (ByteRing.addr_lt cap r r.count) v
  rcases ByteRing.push_cases cap r v with ⟨hc, e⟩ | ⟨hc, e⟩ <;> rw [e]
  · exact ⟨hm, hi, Nat.mod_lt _ cap.isPos, hcount⟩
  · exact ⟨hm, hi, hhead, by show r.count + 1 ≤ cap.entries; omega⟩

/-- A pop keeps the ring within its bounds. -/
theorem ByteRing.pop_inBounds {cap : Capacity} {r : ByteRing} (h : r.inBounds cap) : (r.pop cap).2.inBounds cap := by
  obtain ⟨hwf, hin, hhead, hcount⟩ := h
  rcases ByteRing.pop_cases cap r with ⟨_, e⟩ | ⟨_, e⟩ <;> rw [e]
  · exact ⟨hwf, hin, hhead, hcount⟩
  · exact ⟨hwf, hin, Nat.mod_lt _ cap.isPos, by show r.count - 1 ≤ cap.entries; omega⟩

/-- The queue holds `count` bytes (R42). -/
@[simp] theorem ByteRing.queue_length (cap : Capacity) (r : ByteRing) : (r.queue cap).length = r.count := by
  simp [ByteRing.queue]

end Sys2Proof.Machine
end

