-- ==== Sys2Proof/Laws/Trace.lean ====
section
/-! SUPPORT. Runs of several stimuli: one part after another, and pauses, which only move the millisecond counter
(spec/40_spi_slave_events.md R83). -/

namespace Sys2Proof.Machine

open Sys2Proof

/-- A trace runs its first part, then the rest from there. -/
theorem execAll_append {is : List Instr} {s t : State} (h : execAll is s = .next t) (js : List Instr) :
    execAll (is ++ js) s = execAll js t := by
  induction is generalizing s with
  | nil => cases h; rfl
  | cons i is ih =>
    simp only [List.cons_append, execAll] at h ⊢
    split at h
    · exact ih h
    · cases h
    · cases h

/-- Pauses one after another add up in the millisecond counter, modulo 2^32, and change nothing else but the outputs
(R83). -/
theorem execAll_waits (ws : List Nat) (s : State) :
    ∃ now io, execAll (ws.map .time) s = .next { s with env := { s.env with nowMs := now }, io := io }
      ∧ now.toNat = (s.env.nowMs.toNat + ws.sum) % 2 ^ 32 ∧ io.trace = s.io.trace := by
  induction ws generalizing s with
  | nil => exact ⟨s.env.nowMs, s.io, rfl, by simp [Nat.mod_eq_of_lt s.env.nowMs.isLt], rfl⟩
  | cons w ws ih =>
    obtain ⟨now, io, e, hn, ht⟩ := ih
      ((s.withEnv { s.env with nowMs := BitVec.ofNat 32 (s.env.nowMs.toNat + w) }).emit none [])
    refine ⟨now, io, e, ?_, ht⟩
    simpa [Nat.add_assoc] using hn

/-- The stimuli of a clock edge run its pauses, set the data-in pin, then run the edge. -/
theorem execAll_edge (e : ClockEdge) (v : Level) (rest : List Instr) (s : State) :
    ∃ now, now.toNat = (s.env.nowMs.toNat + e.waits.sum) % 2 ^ 32
      ∧ execAll (e.stimuli v ++ rest) s = execAll (.clk v :: rest)
        { s with env := { s.env with nowMs := now, pinDin := e.din }, io := { s.io with result := none, raised := [] } } := by
  obtain ⟨now, io, h, hn, ht⟩ := execAll_waits e.waits s
  refine ⟨now, hn, ?_⟩
  rw [ClockEdge.stimuli, List.append_assoc, execAll_append h]
  obtain ⟨tr, r, cs⟩ := io
  cases ht
  rfl

end Sys2Proof.Machine
end

