-- ==== Sys2Proof/Tests/Slice0.lean ====
section
/-! SUPPORT. The model's own tests. Expected values are the spec's: its encodings (30_encoding.md R66, R68), its worked
examples in the rules, and the vectors of 95_test_vectors.md (V-..). The last part shows, for every statement with
hypotheses, concrete operands and states that meet them. -/

namespace Sys2Proof.Tests

open Sys2Proof
open Sys2Proof.Machine

/-! ## Decoding: every constructor's word, from the opcode map and the formats -/

theorem test_decode_events :
    decode 0x01000001#32 = .ok (.clk true) ∧ decode 0x01000000#32 = .ok (.clk false)
      ∧ decode 0x02000000#32 = .ok (.sel false) ∧ decode 0x03000001#32 = .ok (.din true)
      ∧ decode 0x04FFFFFF#32 = .ok (.time 16777215) ∧ decode 0x05000000#32 = .ok .reset := by decide

theorem test_decode_session_and_receive :
    decode 0x10000000#32 = .ok .beginSession ∧ decode 0x11000000#32 = .ok .endSession
      ∧ decode 0x12000000#32 = .ok .rxBytesAvailable ∧ decode 0x13000000#32 = .ok .rxBytesRemaining
      ∧ decode 0x14000000#32 = .ok .rxHasData ∧ decode 0x15000000#32 = .ok .rxHasLostData
      ∧ decode 0x16000000#32 = .ok .read ∧ decode 0x17000000#32 = .ok .peek := by decide

theorem test_decode_transmit_and_status :
    decode 0x180000C3#32 = .ok (.write 0xC3#8) ∧ decode 0x19000000#32 = .ok .txIsFull
      ∧ decode 0x1A000000#32 = .ok .getResyncCount := by decide

theorem test_decode_writers :
    decode 0x200000D0#32 = .ok (.updateLsb 0xD0#8) ∧ decode 0x21000007#32 = .ok (.updateMb 0x07#8)
      ∧ decode 0x22000080#32 = .ok (.updateMsb 0x80#8)
      ∧ decode 0x230003EE#32 = .ok (.updateByte 0xEE#8 3)
      ∧ decode 0x249007D0#32 = .ok (.updateDataBytes 0x90#8 0x07#8 0xD0#8)
      ∧ decode 0x25000000#32 = .ok .refresh := by decide

theorem test_decode_readers :
    decode 0x26000000#32 = .ok .getRawMeasurement ∧ decode 0x27000000#32 = .ok .getMeasurement
      ∧ decode 0x28000000#32 = .ok .getUnit ∧ decode 0x29000000#32 = .ok .getSign
      ∧ decode 0x2A000000#32 = .ok .getUnitString ∧ decode 0x2B000000#32 = .ok .getSignString
      ∧ decode 0x2C000000#32 = .ok .setNewData ∧ decode 0x2D000000#32 = .ok .clearNewData
      ∧ decode 0x2E000000#32 = .ok .isNewData ∧ decode 0x2F000000#32 = .ok .getPacketLength := by decide

/-- V-E5 to V-E8: a must-be-zero bit is 1. -/
theorem test_decode_refuses_nonzero_argument :
    decode 0x01000002#32 = .error (.nonzeroArgument 0x01#8 0x000002#24)
      ∧ decode 0x10000001#32 = .error (.nonzeroArgument 0x10#8 0x000001#24)
      ∧ decode 0x18000100#32 = .error (.nonzeroArgument 0x18#8 0x000100#24)
      ∧ decode 0x23010000#32 = .error (.nonzeroArgument 0x23#8 0x010000#24) := by decide

/-- V-E9, V-E10: an unassigned `op`. -/
theorem test_decode_refuses_unassigned_op :
    decode 0x00000000#32 = .error (.unassignedOp 0x00#8) ∧ decode 0x1B000000#32 = .error (.unassignedOp 0x1B#8)
      ∧ decode 0x30000000#32 = .error (.unassignedOp 0x30#8)
      ∧ decode 0xFF000000#32 = .error (.unassignedOp 0xFF#8) := by decide

theorem test_encode_words :
    encode (.sel true) = 0x02000001#32 ∧ encode (.updateByte 0x39#8 1) = 0x23000139#32
      ∧ encode (.updateDataBytes 0x00#8 0x30#8 0x39#8) = 0x24003039#32 := by decide

theorem test_decodeTableWord :
    decodeTableWord 32 0x24003039 = some (.updateDataBytes 0x00#8 0x30#8 0x39#8)
      ∧ decodeTableWord 32 0x01000002 = none := by decide

theorem test_mnemonics :
    Instr.mnemonic (.clk true) = some "CLK" ∧ Instr.mnemonic .beginSession = some "begin"
      ∧ Instr.mnemonic .getPacketLength = some "getPacketLength" := by decide

/-- Ill-formed terms, one for each check of `WellFormed`. -/
theorem test_wellFormed_refuses :
    Instr.wellFormed (.time (2 ^ 24)) = false ∧ Instr.wellFormed (.updateByte 0#8 256) = false := by decide

/-! ## Small states -/

/-- The next state of an answer, if it is one. -/
def nextOf (a : Answer) : Option State :=
  match a with
  | .next t => some t
  | .fault _ => none
  | .refused _ => none

/-- What a stimulus returns at a state. -/
def returned (i : Instr) (s : State) : Option Result := (nextOf (exec i s)).bind (·.io.result)

/-- The slave after a stimulus. -/
def slaveAfter (i : Instr) (s : State) : Option Slave := (nextOf (exec i s)).map (·.slave)

/-- The decoder after a stimulus. -/
def decoderAfter (i : Instr) (s : State) : Option Decoder := (nextOf (exec i s)).map (·.decoder)

/-- The default instance after reset, with these parameters and this slave. -/
def machine (p : Params) (sl : Slave) : State := { State.reset with params := p, slave := sl }

/-- The default parameters without a select pin: always selected. -/
def noSel : Params := { Params.defaults with hasSel := false }

/-- The default parameters with a data-out pin. -/
def withDout : Params := { Params.defaults with hasDout := true }

/-- Capacity two. -/
def two : Capacity := ⟨2, by decide⟩

/-- Rings of two entries, always selected. -/
def smallRings : Params := { noSel with rxCap := two, txCap := two }

/-- An active slave. -/
def running : Slave := { Slave.reset with active := true }

/-- The ring [0x11, 0x22] from cell 0. -/
def ring12 : ByteRing := ⟨[(0, 0x11#8), (1, 0x22#8)], 0, 2⟩

/-- The default machine with these slots, slot A the write-target. -/
def slots (a b : Slot) : State := { State.reset with decoder := { Decoder.reset with slot0 := a, slot1 := b } }

/-! ## Single steps -/

/-- V-S13: a rising edge in mode 0 is tick 0 and samples bit 7; the level stays in the pin. -/
theorem test_clk_samples :
    slaveAfter (.clk true) { machine noSel running with env := { Env.start with pinDin := true } }
      = some { running with rxShift := 0x80#8, dataIndex := 1 } := by decide

/-- R92's example: the sixteenth tick pushes 0xA5. -/
theorem test_clk_pushes :
    (slaveAfter (.clk false) { machine noSel { running with dataIndex := 15, rxShift := 0xA5#8 } with
        env := { Env.start with pinClk := true } }).map (fun sl => (sl.dataIndex.val, sl.rx.queue ⟨64, by decide⟩))
      = some (0, [0xA5#8]) := by decide

/-- R91's example: with 0xC3 in the register, tick 1 drives bit 6, a 1. -/
theorem test_clk_shifts :
    (slaveAfter (.clk false) { machine withDout { running with dataIndex := 1, txShift := 0xC3#8 } with
        env := { Env.start with pinClk := true, pinSel := false } }).map (·.doutLevel) = some true := by decide

/-- R88's example: 11 ms are more than 10, so tick 6 restarts the byte and counts. -/
theorem test_clk_timeout :
    (slaveAfter (.clk true) { machine { noSel with maxClkTime := 10#32 }
          { running with dataIndex := 6, lastEdgeMs := 1006#32 } with
        env := { Env.start with nowMs := 1017#32 } }).map
      (fun sl => (sl.dataIndex.val, sl.resyncCount, sl.lastEdgeMs)) = some (1, 1#8, 1017#32) := by decide

/-- R44's example on the receive ring: [0x11, 0x22] and 0x33 give [0x22, 0x33] and the lost flag. -/
theorem test_clk_overflow :
    (slaveAfter (.clk false) { machine smallRings { running with
          dataIndex := 15, rxShift := 0x33#8, rx := ring12 } with
        env := { Env.start with pinClk := true } }).map (fun sl => (sl.rx.queue two, sl.rxLost))
      = some ([0x22#8, 0x33#8], true) := by decide

/-- R93's example: 0xC3 queued, MSB first, select goes active. -/
theorem test_sel_preloads :
    (slaveAfter (.sel false) (machine withDout { running with tx := ⟨[(0, 0xC3#8)], 0, 1⟩ })).map
      (fun sl => (sl.doutDir, sl.doutLevel, sl.tx.count)) = some (.output, true, 1) := by decide

/-- V-X3: before `begin` a select change runs no handler. -/
theorem test_sel_inactive_slave :
    slaveAfter (.sel false) (machine withDout Slave.reset) = some Slave.reset := by decide

theorem test_din : (nextOf (exec (.din true) State.reset)).map (·.env.pinDin) = some true := by decide

/-- R83's example: 0xFFFFFFFA and 10 ms give 4. -/
theorem test_time_wraps :
    (nextOf (exec (.time 10) { State.reset with env := { Env.start with nowMs := 0xFFFFFFFA#32 } })).map
      (·.env.nowMs) = some 4#32 := by decide

/-- R160: everything but the environment goes back. -/
theorem test_reset :
    nextOf (exec .reset { machine smallRings { running with rx := ring12, rxLost := true } with
        env := { Env.start with pinClk := true } })
      = some { machine smallRings Slave.reset with env := { Env.start with pinClk := true } } := by decide

/-- V-H2: `begin` restarts the handler's own state at 5 ms. -/
theorem test_begin :
    slaveAfter .beginSession { machine noSel { Slave.reset with dataIndex := 7, rxShift := 0xF0#8 } with
        env := { Env.start with nowMs := 5#32 } } = some { running with lastEdgeMs := 5#32 } := by decide

/-- V-H1, row 4: data-out with a select pin that cannot interrupt is refused silently. -/
theorem test_begin_contract_fails :
    slaveAfter .beginSession (machine { withDout with selIrqCapable := false } Slave.reset)
      = some Slave.reset := by decide

/-- V-H2: `end` mid-byte keeps the counter and the shift register. -/
theorem test_end :
    slaveAfter .endSession (machine withDout { running with dataIndex := 7, doutDir := .output })
      = some { running with active := false, dataIndex := 7 } := by decide

/-- V-R2 before the third byte: two bytes held, none free. -/
theorem test_receive_queries :
    returned .rxBytesAvailable (machine smallRings { running with rx := ring12 }) = some (.number 2)
      ∧ returned .rxBytesRemaining (machine smallRings { running with rx := ring12 }) = some (.number 0)
      ∧ returned .rxHasData (machine smallRings { running with rx := ring12 }) = some (.boolean true) := by decide

/-- V-R2: the lost flag is returned once. -/
theorem test_rxHasLostData :
    returned .rxHasLostData (machine noSel { running with rxLost := true }) = some (.boolean true)
      ∧ slaveAfter .rxHasLostData (machine noSel { running with rxLost := true }) = some running := by decide

/-- V-R1: the oldest byte comes out, the head moves. -/
theorem test_read :
    returned .read (machine smallRings { running with rx := ring12 }) = some (.byte 0x11#8)
      ∧ (slaveAfter .read (machine smallRings { running with rx := ring12 })).map
        (fun sl => (sl.rx.head, sl.rx.count)) = some (1, 1) := by decide

/-- V-R4: an empty ring gives 0x00 and stays. -/
theorem test_read_underflow :
    returned .read State.reset = some (.byte 0x00#8) ∧ slaveAfter .read State.reset = some Slave.reset := by decide

/-- R107's example. -/
theorem test_peek :
    returned .peek (machine smallRings { running with rx := ⟨[(0, 0x33#8), (1, 0x22#8)], 1, 2⟩ })
      = some (.byte 0x22#8) := by decide

/-- V-R3: a third write into two entries leaves [0x02, 0x03] with head 1. -/
theorem test_write_overwrites :
    (slaveAfter (.write 0x03#8) (machine smallRings { Slave.reset with
        tx := ⟨[(0, 0x01#8), (1, 0x02#8)], 0, 2⟩ })).map
      (fun sl => (sl.tx.queue two, sl.tx.head, sl.tx.count)) = some ([0x02#8, 0x03#8], 1, 2) := by decide

/-- V-R3. -/
theorem test_txIsFull :
    returned .txIsFull (machine smallRings { Slave.reset with tx := ring12 }) = some (.boolean true)
      ∧ returned .txIsFull (machine smallRings Slave.reset) = some (.boolean false) := by decide

theorem test_getResyncCount :
    returned .getResyncCount (machine noSel { running with resyncCount := 255#8 }) = some (.number 255) := by decide

/-- The examples of R120 to R122. -/
theorem test_named_writers :
    decoderAfter (.updateLsb 0x39#8) State.reset = some { Decoder.reset with slot0 := ⟨0x39#8, 0#8, 0#8⟩ }
      ∧ decoderAfter (.updateMb 0x30#8) State.reset = some { Decoder.reset with slot0 := ⟨0#8, 0x30#8, 0#8⟩ }
      ∧ decoderAfter (.updateMsb 0x90#8) { State.reset with decoder := { Decoder.reset with wsel := .b } }
        = some { Decoder.reset with wsel := .b, slot1 := ⟨0#8, 0#8, 0x90#8⟩ } := by decide

/-- V-D11: index 2 is the top byte, index 3 none. -/
theorem test_updateByte :
    decoderAfter (.updateByte 0x10#8 2) State.reset = some { Decoder.reset with slot0 := ⟨0#8, 0#8, 0x10#8⟩ }
      ∧ decoderAfter (.updateByte 0xEE#8 3) State.reset = some Decoder.reset := by decide

/-- P4, step 3. -/
theorem test_updateDataBytes :
    decoderAfter (.updateDataBytes 0x00#8 0x30#8 0x39#8) State.reset
      = some { Decoder.reset with slot0 := ⟨0x39#8, 0x30#8, 0x00#8⟩, newData := true } := by decide

/-- P4, step 6. -/
theorem test_refresh :
    decoderAfter .refresh { State.reset with decoder := { Decoder.reset with newData := true } }
      = some { Decoder.reset with wsel := .b } := by decide

/-- V-D1. -/
theorem test_readers_millimetres :
    returned .getRawMeasurement (slots .zero ⟨0x39#8, 0x30#8, 0x00#8⟩) = some (.number 12345)
      ∧ returned .getMeasurement (slots .zero ⟨0x39#8, 0x30#8, 0x00#8⟩) = some (.rational (mkRat 2469 20))
      ∧ returned .getUnit (slots .zero ⟨0x39#8, 0x30#8, 0x00#8⟩) = some (.unit .millimetres)
      ∧ returned .getSign (slots .zero ⟨0x39#8, 0x30#8, 0x00#8⟩) = some (.sign .positive) := by decide

/-- V-D8: all bits set, the reserved ones ignored. -/
theorem test_readers_inches :
    returned .getRawMeasurement (slots .zero ⟨0xFF#8, 0xFF#8, 0xFF#8⟩) = some (.number 1048575)
      ∧ returned .getMeasurement (slots .zero ⟨0xFF#8, 0xFF#8, 0xFF#8⟩) = some (.rational (mkRat (-41943) 80))
      ∧ returned .getUnitString (slots .zero ⟨0xFF#8, 0xFF#8, 0xFF#8⟩) = some (.text "in")
      ∧ returned .getSignString (slots .zero ⟨0xFF#8, 0xFF#8, 0xFF#8⟩) = some (.text "-") := by decide

/-- V-D7: no negative zero. -/
theorem test_no_negative_zero :
    returned .getMeasurement (slots .zero ⟨0x00#8, 0x00#8, 0x10#8⟩) = some (.rational 0) := by decide

theorem test_newData_accessors :
    decoderAfter .setNewData State.reset = some { Decoder.reset with newData := true }
      ∧ decoderAfter .clearNewData { State.reset with decoder := { Decoder.reset with newData := true } }
        = some Decoder.reset
      ∧ returned .isNewData State.reset = some (.boolean false)
      ∧ returned .getPacketLength State.reset = some (.number 3) := by decide

/-- The enumeration codes of R64. -/
theorem test_codes :
    LengthUnit.inches.code = 1 ∧ Sign.negative.code = 1 ∧ levelCode true = 1 ∧ Dir.output.code = 1
      ∧ bitOrderCode .lsbFirst = 1 ∧ clkModeCode .mode3 = 3 := by decide

/-- R74: `XFER` is 24 stimuli, the first bit of 0xA5 first. -/
theorem test_xfer_shape :
    (xfer .msbFirst 0xA5#8 true).length = 24
      ∧ (xfer .msbFirst 0xA5#8 true).take 3 = [.din true, .clk true, .clk false] := by decide

/-- A word placed for the fetch is the next stimulus. -/
theorem test_step_runs_the_word :
    (nextOf (step (State.reset.withFetchWord 32 0x24003039))).map (·.decoder.slot0)
      = some ⟨0x39#8, 0x30#8, 0x00#8⟩ := by decide

/-! ## Witnesses: the hypotheses of the statements are met -/

theorem witness_EncodeThenDecodeGivesStimulus : Instr.wellFormed (.time (2 ^ 24 - 1)) = true := by decide

theorem witness_DecodedWordIsItsEncoding : decode 0x2300FFEE#32 = .ok (.updateByte 0xEE#8 255) := by decide

theorem witness_DecoderFollowsTheOpcodeTable :
    decode 0x2F000000#32 = .ok .getPacketLength
      ∧ decode 0x06000000#32 = .error (.unassignedOp 0x06#8) := by decide

theorem witness_StepRunsTheDecodedStimulus :
    (State.reset.withTrace [0x25000000#32, 0x10000000#32]).io.trace = 0x25000000#32 :: [0x10000000#32]
      ∧ decode 0x25000000#32 = .ok .refresh := by decide

theorem witness_StepRefusesIllegalWords :
    (State.reset.withTrace [0x01000002#32]).io.trace = 0x01000002#32 :: []
      ∧ ∀ r ∈ opcodeTable, r.selectedBy 0x01000002#32 = false := by decide

theorem witness_StepWithoutStimulusIsIdle : State.reset.io.trace = [] := by decide

theorem witness_ClkWithoutHandlerOnlyMovesThePin :
    (false = (machine noSel running).env.pinClk ∧ (machine noSel running).slave.active = true)
      ∧ (true ≠ State.reset.env.pinClk ∧ State.reset.slave.active = false) := by decide

theorem witness_SelWithoutHandlerOnlyMovesThePin :
    true = (machine withDout running).env.pinSel
      ∧ (false ≠ (machine withDout Slave.reset).env.pinSel ∧ (machine withDout Slave.reset).slave.active = false)
      ∧ (false ≠ (machine Params.defaults running).env.pinSel
        ∧ (machine Params.defaults running).params.hasDout = false) := by decide

/-- V-S1: the default instance, select inactive. -/
theorem witness_DeselectedEdgeAbandonsTheByte :
    true ≠ (machine Params.defaults running).env.pinClk
      ∧ (machine Params.defaults running).slave.active = true
      ∧ (machine Params.defaults running).params.hasSel = true
      ∧ (machine Params.defaults running).env.pinSel ≠ (machine Params.defaults running).params.selActive := by
  decide

theorem witness_ClkTickFrame :
    true ≠ (machine noSel running).env.pinClk ∧ (machine noSel running).ticking := by decide

/-- Start of a byte with an empty ring, with a byte queued, and mid-byte. -/
theorem witness_ClkTickLoadsTheTransmitByte :
    ((machine smallRings running).ticking ∧ (machine smallRings running).slave.dataIndex.val = 0
        ∧ (machine smallRings running).slave.tx.queue two = [])
      ∧ ((machine smallRings { running with tx := ring12 }).ticking
        ∧ (machine smallRings { running with tx := ring12 }).slave.tx.queue two = 0x11#8 :: [0x22#8])
      ∧ ((machine smallRings { running with dataIndex := 1 }).ticking
        ∧ 0 < (machine smallRings { running with dataIndex := 1 }).slave.dataIndex.val) := by decide

/-- V-S6 and V-S8: 10 ms are not more than 10, 11 ms are, across a wrap too. -/
theorem witness_ClkTickTimeoutRestartsTheByte :
    ¬ { machine { noSel with maxClkTime := 10#32 } { running with dataIndex := 1 } with
          env := { Env.start with nowMs := 10#32 } }.restarts
      ∧ { machine { noSel with maxClkTime := 10#32 } { running with dataIndex := 1 } with
          env := { Env.start with nowMs := 11#32 } }.restarts
      ∧ { machine { noSel with maxClkTime := 10#32 }
            { running with dataIndex := 1, lastEdgeMs := 0xFFFFFFFA#32 } with
          env := { Env.start with nowMs := 5#32 } }.restarts
      ∧ (machine { noSel with maxClkTime := 10#32 } { running with dataIndex := 1 }).ticking := by decide

/-- A sample edge with data-in; a shift edge; a sample edge without data-in. -/
theorem witness_ClkTickSamplesOneBit :
    ((machine noSel running).ticking ∧ (machine noSel running).samplesOn true
        ∧ (machine noSel running).params.hasDin = true)
      ∧ ((machine { noSel with clkMode := .mode1 } running).ticking
        ∧ ¬ (machine { noSel with clkMode := .mode1 } running).samplesOn true)
      ∧ ((machine { noSel with hasDin := false } running).ticking
        ∧ (machine { noSel with hasDin := false } running).params.hasDin = false) := by decide

/-- A selected slave with data-out: a shift edge inside the byte and on its last half-tick; a sample edge. -/
theorem witness_ClkTickDrivesTheNextBit :
    ((machine { withDout with selActive := true, clkMode := .mode1 } { running with dataIndex := 14 }).ticking
        ∧ ¬ (machine { withDout with selActive := true, clkMode := .mode1 } running).samplesOn true
        ∧ (machine { withDout with selActive := true, clkMode := .mode1 }
            { running with dataIndex := 14 }).tickIndex = 14)
      ∧ (machine { withDout with selActive := true, clkMode := .mode1 } { running with dataIndex := 15 }).tickIndex
          = 15
      ∧ (machine { withDout with selActive := true } running).samplesOn true := by decide

/-- The last tick but one and the last. -/
theorem witness_ClkTickAdvancesAndPushes :
    ((machine smallRings { running with dataIndex := 14 }).ticking
        ∧ (machine smallRings { running with dataIndex := 14 }).slave.rx.inBounds two
        ∧ (machine smallRings { running with dataIndex := 14 }).tickIndex < 15)
      ∧ (machine smallRings { running with dataIndex := 15, rx := ring12 }).slave.rx.inBounds two
      ∧ (machine smallRings { running with dataIndex := 15, rx := ring12 }).tickIndex = 15 := by decide

theorem witness_OverflowDropsTheOldestByte :
    true ≠ (machine smallRings { running with dataIndex := 15, rx := ring12 }).env.pinClk
      ∧ (machine smallRings { running with dataIndex := 15, rx := ring12 }).ticking
      ∧ (machine smallRings { running with dataIndex := 15, rx := ring12 }).slave.rx.inBounds two
      ∧ (machine smallRings { running with dataIndex := 15, rx := ring12 }).tickIndex = 15
      ∧ (machine smallRings { running with dataIndex := 15, rx := ring12 }).slave.rx.count = two.entries := by
  decide

/-- A tick that stores, whose one changed cell is `tail` = 1; and the three that store nothing. -/
theorem witness_ClkMemoryFrame :
    (machine smallRings { running with dataIndex := 15, rx := ⟨[(0, 0x11#8)], 0, 1⟩ }).slave.rx.tail two = 1
      ∧ false = (machine smallRings running).env.pinClk
      ∧ ¬ (machine smallRings Slave.reset).ticking
      ∧ (machine smallRings { running with dataIndex := 14 }).tickIndex < 15 := by decide

/-- A byte with a pause of the timeout's length before every edge but the first, and a longer one before the first. -/
def pausedByte : List ClockEdge := ⟨[2000, 3000], true⟩ :: List.replicate 15 ⟨[4, 6], true⟩

/-- Rings of two entries and a timeout of 10 ms. -/
def timed : Params := { smallRings with maxClkTime := 10#32 }

/-- With no timeout configured, any pause; with one, pauses up to it, and P3's 11 ms are too long. -/
theorem witness_SixteenTicksPushOneByte :
    ((machine timed running).ticking ∧ (machine timed running).slave.rx.inBounds two
        ∧ (machine timed running).slave.dataIndex.val = 0 ∧ (machine timed running).params.hasDin = true
        ∧ pausedByte.length = 16 ∧ (∀ e ∈ pausedByte.tail, e.inTime timed)
        ∧ ¬ ClockEdge.inTime timed ⟨[11], true⟩)
    ∧ (machine smallRings running).ticking ∧ (machine smallRings running).slave.rx.inBounds two
      ∧ (machine smallRings running).slave.dataIndex.val = 0
      ∧ (machine smallRings running).params.hasDin = true
      ∧ (∀ e ∈ (List.replicate 16 (⟨[99], true⟩ : ClockEdge)).tail, e.inTime smallRings) := by decide

/-- P1's byte on the always selected instance. -/
theorem witness_XferClocksTheByteIn :
    (machine noSel running).ticking ∧ (machine noSel running).slave.rx.inBounds noSel.rxCap
      ∧ (machine noSel running).slave.dataIndex.val = 0 ∧ (machine noSel running).params.hasDin = true := by decide

/-- Both clauses, at the first and the last position. -/
theorem witness_TransmitByteIsDrivenBitByBit :
    ((machine { withDout with selActive := true, clkMode := .mode1 } running).ticking
        ∧ (machine { withDout with selActive := true, clkMode := .mode1 } running).params.hasDout = true
        ∧ ¬ (machine { withDout with selActive := true, clkMode := .mode1 } running).samplesOn true
        ∧ (pausedByte.take 1).length = 2 * 0 + 1 ∧ (pausedByte.take 15).length = 2 * 7 + 1
        ∧ (∀ e ∈ pausedByte.tail,
            e.inTime (machine { withDout with selActive := true, clkMode := .mode1 } running).params))
      ∧ ((machine { withDout with selActive := true } running).ticking
        ∧ (machine { withDout with selActive := true } running).samplesOn true
        ∧ (pausedByte.take 2).length = 2 * 0 + 2 ∧ pausedByte.length = 2 * 7 + 2
        ∧ (∀ e ∈ pausedByte.tail, e.inTime (machine { withDout with selActive := true } running).params)) := by decide

/-- V-X1 and V-S5: with a byte queued and with none. -/
theorem witness_SelToActiveDrivesAndPreloads :
    (false ≠ (machine withDout running).env.pinSel ∧ (machine withDout running).slave.active = true
        ∧ (machine withDout running).params.hasDout = true ∧ false = (machine withDout running).params.selActive)
      ∧ (machine withDout running).slave.tx.queue withDout.txCap = []
      ∧ (machine withDout { running with tx := ring12 }).slave.tx.queue withDout.txCap = [0x11#8, 0x22#8] := by
  decide

theorem witness_SelToInactiveReleasesTheLine :
    false ≠ (machine { withDout with selActive := true } running).env.pinSel
      ∧ (machine { withDout with selActive := true } running).slave.active = true
      ∧ (machine { withDout with selActive := true } running).params.hasDout = true
      ∧ false ≠ (machine { withDout with selActive := true } running).params.selActive := by decide

theorem witness_BeginStartsASession :
    State.reset.slave.active = false ∧ activationContract State.reset.params := by decide

/-- Already active; and each clause of the contract failing (V-H1). -/
theorem witness_BeginOtherwiseChangesNothing :
    (machine noSel running).slave.active = true
      ∧ ¬ activationContract { Params.defaults with clkIrqCapable := false }
      ∧ ¬ activationContract { Params.defaults with hasDin := false }
      ∧ ¬ activationContract { withDout with hasSel := false }
      ∧ ¬ activationContract { withDout with selIrqCapable := false } := by decide

theorem witness_RxBytesRemainingCountsFreeEntries :
    (machine smallRings { running with rx := ring12 }).slave.rx.count ≤ two.entries := by decide

/-- `read` of an empty ring and of one with bytes. -/
theorem witness_ReadDequeuesTheOldestByte :
    State.reset.slave.rx.queue State.reset.params.rxCap = []
      ∧ (machine smallRings { running with rx := ring12 }).slave.rx.queue two = 0x11#8 :: [0x22#8] := by decide

theorem witness_WriteQueuesTheByte :
    (machine smallRings { running with tx := ring12 }).slave.tx.inBounds two
      ∧ (machine smallRings running).slave.tx.inBounds two := by decide

/-- Two and three bytes for the two entries. -/
theorem witness_WritesQueueInFifoOrder :
    (machine smallRings running).slave.tx.inBounds two ∧ (machine smallRings running).slave.tx.count = 0
      ∧ [0x01#8, 0x02#8].length ≤ two.entries ∧ [0x01#8, 0x02#8, 0x03#8].length = two.entries + 1 := by decide

theorem witness_ReadersAreStableBetweenRefreshes :
    ∀ i ∈ [Instr.updateDataBytes 1#8 2#8 3#8, .clk true, .updateLsb 4#8], i ≠ .refresh ∧ i ≠ .reset := by decide

theorem witness_DecoderIsIndependentOfTheSlave :
    (0x20 ≤ (Instr.updateLsb 0#8).op.toNat ∧ (machine noSel running).decoder = State.reset.decoder)
      ∧ (Instr.getResyncCount.op.toNat < 0x20 ∧ Instr.getResyncCount ≠ .reset)
      ∧ (Instr.peek.op.toNat < 0x20 ∧ (slots ⟨1, 2, 3⟩ .zero).slave = State.reset.slave
        ∧ (slots ⟨1, 2, 3⟩ .zero).decoder ≠ State.reset.decoder) := by decide

theorem witness_StepKeepsTheInvariant :
    ((machine smallRings { running with dataIndex := 15, rx := ring12 }).withTrace [0x01000001#32]).Inv
      ∧ (nextOf (step ((machine smallRings { running with dataIndex := 15, rx := ring12 }).withTrace
          [0x01000001#32]))).isSome = true := by decide

/-- The same queue [0x22] held from cell 1 and from cell 0, with a stale cell in the first. -/
theorem witness_OnlyTheQueuesAreObservable :
    (machine smallRings { running with rx := ⟨[(0, 0x11#8), (1, 0x22#8)], 1, 1⟩ }).sameButCells
        (machine smallRings { running with rx := ⟨[(0, 0x22#8)], 0, 1⟩ })
      ∧ (machine smallRings { running with rx := ⟨[(0, 0x11#8), (1, 0x22#8)], 1, 1⟩ }).slave.rx.inBounds two
      ∧ (machine smallRings { running with rx := ⟨[(0, 0x22#8)], 0, 1⟩ }).slave.rx.inBounds two
      ∧ (machine smallRings running).slave.tx.inBounds two := by decide

theorem witness_InactiveSlaveIsInert :
    State.reset.slave.active = false
      ∧ ∀ i ∈ [Instr.clk true, .sel false, .din true, .time 5], i.agent = .wire := by decide

theorem witness_NoStimulusChangesTheParameters : (nextOf (exec .beginSession State.reset)).isSome = true := by decide

theorem witness_OnlyTheWireMovesTheEnvironment :
    (nextOf (exec .reset State.reset)).isSome = true ∧ Instr.reset.agent ≠ .wire := by decide

/-- `begin` sets, `end` and `RESET` clear. -/
theorem witness_OnlySessionOperationsChangeActive :
    (nextOf (exec .beginSession State.reset)).map (·.slave.active) = some true
      ∧ (nextOf (exec .endSession (machine noSel running))).map (·.slave.active) = some false
      ∧ (nextOf (exec .reset (machine noSel running))).map (·.slave.active) = some false := by decide

/-- Both clauses: the flag cleared by its query, and set by a byte on a full ring. -/
theorem witness_LostFlagIsSticky :
    (nextOf (exec .rxHasLostData (machine noSel { running with rxLost := true }))).map (·.slave.rxLost) = some false
      ∧ (nextOf (exec (.clk true) (machine smallRings { running with dataIndex := 15, rx := ring12 }))).map
          (·.slave.rxLost) = some true := by decide

/-- V-S9: from 254 to 255, and 255 stays. -/
theorem witness_ResyncCountOnlyCountsTimeouts :
    (nextOf (exec (.clk true) { machine { noSel with maxClkTime := 1#32 }
          { running with dataIndex := 1, resyncCount := 254#8 } with
        env := { Env.start with nowMs := 2#32 } })).map (·.slave.resyncCount) = some 255#8
      ∧ (nextOf (exec (.clk true) { machine { noSel with maxClkTime := 1#32 }
          { running with dataIndex := 1, resyncCount := 255#8 } with
        env := { Env.start with nowMs := 2#32 } })).map (·.slave.resyncCount) = some 255#8 := by decide

theorem witness_AtMostOneConditionAStimulus :
    (nextOf (exec .read State.reset)).map (·.io.raised) = some [.underflow] := by decide

theorem witness_OnlyProducersStoreToTheRings :
    (nextOf (exec .peek State.reset)).isSome = true ∧ Instr.peek ≠ .reset
      ∧ (∀ v, Instr.peek ≠ .clk v) ∧ ∀ b, Instr.peek ≠ .write b := by
  refine ⟨by decide, by decide, fun v => ?_, fun b => ?_⟩ <;> intro h <;> cases h

/-- A heedful write, read and refresh. -/
theorem witness_HeedfulHostLosesNothing :
    (machine smallRings running).slave.tx.inBounds two
      ∧ heedsAdvice (.write 0x01#8) (machine smallRings running) = true
      ∧ heedsAdvice .read (machine smallRings { running with rx := ring12 }) = true
      ∧ heedsAdvice .refresh { State.reset with decoder := { Decoder.reset with newData := true } } = true := by
  decide

end Sys2Proof.Tests
end

section
/-! The rings as queues: what a push does to the bytes held (spec/20_memory.md R42 to R44). -/

namespace Sys2Proof.Machine

/-- Two places fewer than `CAP` apart have different cells (R42). -/
theorem ByteRing.addr_ne {cap : Capacity} (r : ByteRing) {i j : Nat} (hij : i < j) (hj : j < i + cap.entries) :
    r.addr cap i ≠ r.addr cap j := by
  intro h
  have hdvd : cap.entries ∣ (r.head + j) - (r.head + i) := (Nat.modEq_iff_dvd' (by omega)).1 h
  have hle := Nat.le_of_dvd (by omega) hdvd
  omega

/-- Among the last `CAP` places, a push changes what place `count` reads and no other (R41, R43). -/
theorem ByteRing.read_push {cap : Capacity} {r : ByteRing} (hwf : r.mem.wf) (v : Byte) {j : Nat}
    (hj : j ≤ r.count) (hlast : r.count < j + cap.entries) :
    (r.push cap v).mem.read (r.addr cap j) = if j = r.count then v else r.mem.read (r.addr cap j) := by
  rw [ByteRing.push_mem]
  split
  case isTrue h => rw [h]; exact Memory.read_write_same hwf _ v
  case isFalse h => exact Memory.read_write_other _ v (r.addr_ne (by omega) hlast)

/-- With the head one cell on, place `j` is what was place `j + 1` (R44, R45). -/
theorem ByteRing.addr_of_head_succ {cap : Capacity} {r r' : ByteRing} (h : r'.head = (r.head + 1) % cap.entries)
    (j : Nat) : r'.addr cap j = r.addr cap (j + 1) := by
  simp only [ByteRing.addr, h, Nat.mod_add_mod]
  rw [Nat.add_assoc, Nat.add_comm 1 j]

/-- Below capacity a push appends the byte (R44). -/
theorem ByteRing.queue_push_of_lt {cap : Capacity} {r : ByteRing} (hwf : r.mem.wf) (hlt : r.count < cap.entries)
    (v : Byte) : (r.push cap v).queue cap = r.queue cap ++ [v] := by
  have hread := fun j (hj : j ≤ r.count) => ByteRing.read_push (cap := cap) hwf v hj (by omega)
  obtain ⟨hc, -⟩ | ⟨-, e⟩ := ByteRing.push_cases cap r v
  · omega
  have haddr (j : Nat) : (r.push cap v).addr cap j = r.addr cap j := by rw [e]; rfl
  have hcount : (r.push cap v).count = r.count + 1 := by rw [e]
  simp only [ByteRing.queue, hcount, haddr, List.range_succ, List.map_append, List.map_singleton]
  congr 1
  · refine List.map_congr_left fun j hj => ?_
    have hj := List.mem_range.1 hj
    rw [hread j hj.le, if_neg hj.ne]
  · rw [hread r.count le_rfl, if_pos rfl]

/-- At capacity a push drops the oldest byte and appends the new one (R44). -/
theorem ByteRing.queue_push_of_full {cap : Capacity} {r : ByteRing} (hwf : r.mem.wf) (hfull : r.count = cap.entries)
    (v : Byte) : (r.push cap v).queue cap = (r.queue cap).tail ++ [v] := by
  have hread := fun j (hj : j + 1 ≤ r.count) => ByteRing.read_push (cap := cap) hwf v hj (by omega)
  obtain ⟨-, e⟩ | ⟨hc, -⟩ := ByteRing.push_cases cap r v
  case inr => exact absurd hfull hc
  have haddr (j : Nat) : (r.push cap v).addr cap j = r.addr cap (j + 1) :=
    ByteRing.addr_of_head_succ (by rw [e]) j
  have hcount : (r.push cap v).count = r.count := by rw [e]
  obtain ⟨n, hn⟩ : ∃ n, r.count = n + 1 := Nat.exists_eq_add_one.2 (hfull ▸ cap.isPos)
  have hold : (r.queue cap).tail = (List.range n).map fun j => r.mem.read (r.addr cap (j + 1)) := by
    rw [ByteRing.queue, hn, List.range_succ_eq_map, List.map_cons, List.tail_cons, List.map_map]
    rfl
  rw [hold]
  simp only [ByteRing.queue, hcount, hn, haddr, List.range_succ, List.map_append, List.map_singleton]
  congr 1
  · refine List.map_congr_left fun j hj => ?_
    have hj := List.mem_range.1 hj
    rw [hread j (by omega), if_neg (by omega)]
  · rw [hread n hn.ge, if_pos hn.symm]

/-- `RingPush` on the observable content (R44). -/
theorem ByteRing.queue_push {cap : Capacity} {r : ByteRing} (h : r.inBounds cap) (v : Byte) :
    (r.push cap v).queue cap = queuePush cap (r.queue cap) v := by
  obtain ⟨hwf, -, -, hcount⟩ := h
  rw [queuePush, ByteRing.queue_length]
  split
  case isTrue hlt => exact ByteRing.queue_push_of_lt hwf hlt v
  case isFalse hge => exact ByteRing.queue_push_of_full hwf (by omega) v

end Sys2Proof.Machine
end

section
/-! One tick of the clock-edge handler up to step 7, and step 7 itself (spec/40_spi_slave_events.md R84 to R92). -/

namespace Sys2Proof.Machine

section Steps
variable (p : Params) (e : Env) (sl : Slave)

@[simp] theorem loadTransmit_dataIndex : (loadTransmit p sl).dataIndex = sl.dataIndex := by
  obtain h | h | h := loadTransmit_cases p sl <;> rw [h]
@[simp] theorem loadTransmit_lastEdgeMs : (loadTransmit p sl).lastEdgeMs = sl.lastEdgeMs := by
  obtain h | h | h := loadTransmit_cases p sl <;> rw [h]
@[simp] theorem loadTransmit_rx : (loadTransmit p sl).rx = sl.rx := by
  obtain h | h | h := loadTransmit_cases p sl <;> rw [h]
@[simp] theorem loadTransmit_rxLost : (loadTransmit p sl).rxLost = sl.rxLost := by
  obtain h | h | h := loadTransmit_cases p sl <;> rw [h]

@[simp] theorem resynchronise_dataIndex : (resynchronise p e sl).1.dataIndex.val
    = if timedOut p e sl = true then 0 else sl.dataIndex.val := by
  obtain ⟨ht, h⟩ | ⟨ht, h⟩ := resynchronise_cases p e sl <;> simp [h, ht]
@[simp] theorem resynchronise_rx : (resynchronise p e sl).1.rx = sl.rx := by
  obtain ⟨-, h⟩ | ⟨-, h⟩ := resynchronise_cases p e sl <;> rw [h]
@[simp] theorem resynchronise_rxLost : (resynchronise p e sl).1.rxLost = sl.rxLost := by
  obtain ⟨-, h⟩ | ⟨-, h⟩ := resynchronise_cases p e sl <;> rw [h]

@[simp] theorem sampleOrShift_dataIndex : (sampleOrShift p e sl).dataIndex = sl.dataIndex := by
  obtain ⟨-, _, h⟩ | ⟨-, _, h⟩ := sampleOrShift_cases p e sl <;> rw [h]
@[simp] theorem sampleOrShift_rx : (sampleOrShift p e sl).rx = sl.rx := by
  obtain ⟨-, _, h⟩ | ⟨-, _, h⟩ := sampleOrShift_cases p e sl <;> rw [h]
@[simp] theorem sampleOrShift_rxLost : (sampleOrShift p e sl).rxLost = sl.rxLost := by
  obtain ⟨-, _, h⟩ | ⟨-, _, h⟩ := sampleOrShift_cases p e sl <;> rw [h]

/-- Below 15, step 7 counts one tick and does nothing else (R92). -/
theorem advance_of_lt (h : sl.dataIndex.val < 15) :
    advance p sl = ({ sl with dataIndex := ⟨sl.dataIndex.val + 1, by omega⟩ }, []) := by
  obtain ⟨_, e⟩ | ⟨h15, -⟩ := advance_cases p sl
  · exact e
  · omega

/-- At 15, step 7 pushes the receive register and restarts the counter (R92). -/
theorem advance_of_eq (h : sl.dataIndex.val = 15) :
    advance p sl = ({ (receiveByte p sl sl.rxShift).1 with dataIndex := 0 }, (receiveByte p sl sl.rxShift).2) := by
  obtain ⟨hlt, -⟩ | ⟨-, e⟩ := advance_cases p sl
  · omega
  · exact e

variable (v : Byte)

@[simp] theorem receiveByte_rx : (receiveByte p sl v).1.rx = sl.rx.push p.rxCap v := by
  obtain ⟨-, h⟩ | ⟨-, h⟩ := receiveByte_cases p sl v <;> rw [h]
@[simp] theorem receiveByte_rxShift : (receiveByte p sl v).1.rxShift = sl.rxShift := by
  obtain ⟨-, h⟩ | ⟨-, h⟩ := receiveByte_cases p sl v <;> rw [h]
/-- The lost flag after a byte is received: sticky, and set when the ring was full (R44, R142). -/
@[simp] theorem receiveByte_rxLost : (receiveByte p sl v).1.rxLost = (sl.rxLost || sl.rx.isFull p.rxCap) := by
  obtain ⟨hf, h⟩ | ⟨hf, h⟩ := receiveByte_cases p sl v <;> simp [h, hf]
end Steps

/-- Step 4's test is `restarts`: the new clock level does not enter it (R88). -/
theorem timedOut_iff_restarts (v : Level) (s : State) :
    timedOut s.params { s.env with pinClk := v } (loadTransmit s.params s.slave) = true ↔ s.restarts := by
  have hlast := s.slave.lastEdgeMs.isLt
  have hpause : (s.env.nowMs - s.slave.lastEdgeMs).toNat
      = (s.env.nowMs.toNat + 2 ^ 32 - s.slave.lastEdgeMs.toNat) % 2 ^ 32 := by
    rw [BitVec.toNat_sub]
    congr 1
    omega
  simp [timedOut, elapsed, hpause, and_assoc, State.restarts]

/-- The slave of a tick to the level `v` before step 7 (R87 to R91). -/
def State.beforeAdvance (s : State) (v : Level) : Slave :=
  let e := { s.env with pinClk := v }
  sampleOrShift s.params e (resynchronise s.params e (loadTransmit s.params s.slave)).1

section BeforeAdvance
variable (s : State) (v : Level)

/-- Step 7 finds the half-bit count of step 4 (R88, R92). -/
@[simp] theorem beforeAdvance_dataIndex : (s.beforeAdvance v).dataIndex.val = s.tickIndex := by
  simp [State.beforeAdvance, State.tickIndex, timedOut_iff_restarts]
@[simp] theorem beforeAdvance_rx : (s.beforeAdvance v).rx = s.slave.rx := by
  simp [State.beforeAdvance]
@[simp] theorem beforeAdvance_rxLost : (s.beforeAdvance v).rxLost = s.slave.rxLost := by
  simp [State.beforeAdvance]
end BeforeAdvance

/-- A clock edge handled as a tick is `selectedTick` at the new level, inside its step (R80, R84). -/
theorem exec_clk_of_ticking {v : Level} {s : State} (hv : v ≠ s.env.pinClk) (ht : s.ticking) :
    exec (.clk v) s = .next
      (((s.withEnv { s.env with pinClk := v }).withSlave
          (selectedTick s.params { s.env with pinClk := v } s.slave).1).emit none
        (selectedTick s.params { s.env with pinClk := v } s.slave).2) := by
  obtain ⟨hactive, hsel⟩ := ht
  have hsel' : deselected s.params { s.env with pinClk := v } = false := hsel
  simp [exec, execClk, clockEdgeHandler, hv, hactive, hsel']

/-- A tick ends with step 7 (R84, R92). -/
theorem selectedTick_eq_advance (s : State) (v : Level) :
    (selectedTick s.params { s.env with pinClk := v } s.slave).1 = (advance s.params (s.beforeAdvance v)).1 := rfl

/-- Settles O21: step 7 on the half-bit count that step 4 leaves, its push read as `queuePush`. -/
theorem clkTickAdvancesAndPushes : Obligations.ClkTickAdvancesAndPushes := by
  intro v s hv ht hin
  refine ⟨_, exec_clk_of_ticking hv ht, fun hlt => ?_, fun h15 => ?_⟩
  · rw [emit_slave, withSlave_slave, selectedTick_eq_advance, advance_of_lt _ _ (by simpa using hlt)]
    simp
  · rw [emit_slave, withSlave_slave, selectedTick_eq_advance, advance_of_eq _ _ (by simpa using h15)]
    simp [ByteRing.queue_push hin, ByteRing.isFull, beq_eq_decide]

end Sys2Proof.Machine
end

section
/-! The pin events that run no handler (spec/40_spi_slave_events.md section 1). -/

namespace Sys2Proof.Machine

/-- Format V: op 0x03 with the level in bit 0 is `DIN` (R66, R68). -/
theorem decode_din (v : Level) : decode (0x03#8 ++ 0#23 ++ BitVec.ofBool v) = .ok (.din v) := by
  cases v <;> rfl

/-- Settles O13: the word and the effect of `DIN`. -/
theorem dinOnlySetsThePin : Obligations.DinOnlySetsThePin := by
  intro v s
  exact ⟨decode_din v, rfl⟩

end Sys2Proof.Machine
end

section
/-! The status operations of the slave (spec/41_spi_slave_host_ops.md R102, R104, R105, R109, R110). -/

namespace Sys2Proof.Machine

/-- A host operation's answer is its result with no condition; every other field stays (R75). -/
theorem answer_eq (s : State) (r : Result) :
    s.answer r = .next { s with io := { s.io with result := some r, raised := [] } } := rfl

/-- The ring's test for full, as the comparison R109 writes. -/
theorem ByteRing.isFull_eq_decide (cap : Capacity) (r : ByteRing) :
    r.isFull cap = decide (r.count = cap.entries) := beq_eq_decide r.count cap.entries

section StatusQueries
variable (s : State)

theorem exec_rxBytesAvailable : exec .rxBytesAvailable s = s.answer (.number s.slave.rx.count) := rfl

theorem exec_rxHasData : exec .rxHasData s = s.answer (.boolean (decide (s.slave.rx.count > 0))) := rfl

theorem exec_rxHasLostData :
    exec .rxHasLostData s = (s.withSlave { s.slave with rxLost := false }).answer (.boolean s.slave.rxLost) := rfl

theorem exec_txIsFull :
    exec .txIsFull s = s.answer (.boolean (decide (s.slave.tx.count = s.params.txCap.entries))) :=
  congrArg (fun full => s.answer (.boolean full)) (ByteRing.isFull_eq_decide s.params.txCap s.slave.tx)

theorem exec_getResyncCount : exec .getResyncCount s = s.answer (.number s.slave.resyncCount.toNat) := rfl

end StatusQueries

/-- Settles O32: the four words, and each query as an answer. -/
theorem statusQueriesOnlyReport : Obligations.StatusQueriesOnlyReport := by
  refine ⟨rfl, rfl, rfl, rfl, fun s => ⟨?_, ?_, ?_, ?_⟩⟩
  · rw [exec_rxBytesAvailable, answer_eq]
  · rw [exec_rxHasData, answer_eq]
  · rw [exec_txIsFull, answer_eq]
  · rw [exec_getResyncCount, answer_eq]

/-- Settles O34: the answer carries the flag from before the clear. -/
theorem rxHasLostDataReadsAndClears : Obligations.RxHasLostDataReadsAndClears := by
  refine ⟨rfl, fun s => ?_⟩
  rw [exec_rxHasLostData, answer_eq]
  rfl

end Sys2Proof.Machine
end

section
/-! The decoder and the slave side by side (spec/42_packet_decoder.md R137): which part of the state each stimulus reads
and writes. -/

namespace Sys2Proof.Machine

/-- `f` completes, writes the decoder only, and runs the same whatever the rest of the state holds. -/
def OnDecoderAlone (f : State → Answer) : Prop :=
  ∀ s, ∃ s', f s = .next s'
    ∧ ∀ p sl e io, f ⟨p, s.decoder, sl, e, io⟩ = .next ⟨p, s'.decoder, sl, e, { s'.io with trace := io.trace }⟩

/-- `f` completes, keeps the decoder, and runs the same whatever the decoder and the outputs before it hold. -/
def BesideDecoder (f : State → Answer) : Prop :=
  ∀ s, ∃ s', f s = .next s' ∧ s'.decoder = s.decoder
    ∧ ∀ d io, f { s with decoder := d, io := io }
      = .next { s' with decoder := d, io := { s'.io with trace := io.trace } }

/-- `CLK` and the clock-edge handler it runs see no decoder (R80). -/
theorem execClk_besideDecoder (v : Level) : BesideDecoder (execClk v) := by
  intro s
  by_cases hv : v = s.env.pinClk
  · exact ⟨_, if_pos hv, rfl, fun _ _ => if_pos hv⟩
  by_cases ha : s.slave.active = true
  · exact ⟨_, (if_neg hv).trans (if_pos ha), rfl, fun _ _ => (if_neg hv).trans (if_pos ha)⟩
  · exact ⟨_, (if_neg hv).trans (if_neg ha), rfl, fun _ _ => (if_neg hv).trans (if_neg ha)⟩

/-- `SEL` and the select-edge handler it runs see no decoder (R81). -/
theorem execSel_besideDecoder (v : Level) : BesideDecoder (execSel v) := by
  intro s
  by_cases hv : v = s.env.pinSel
  · exact ⟨_, if_pos hv, rfl, fun _ _ => if_pos hv⟩
  by_cases ha : (s.slave.active && s.params.hasDout) = true
  · exact ⟨_, (if_neg hv).trans (if_pos ha), rfl, fun _ _ => (if_neg hv).trans (if_pos ha)⟩
  · exact ⟨_, (if_neg hv).trans (if_neg ha), rfl, fun _ _ => (if_neg hv).trans (if_neg ha)⟩

/-- Every outcome of `begin` is decided without the decoder (R100). -/
theorem execBegin_besideDecoder : BesideDecoder execBegin := by
  intro s
  by_cases ha : s.slave.active = true
  · exact ⟨_, if_pos ha, rfl, fun _ _ => if_pos ha⟩
  by_cases hok : activationOk s.params = true
  · exact ⟨_, (if_neg ha).trans (if_pos hok), rfl, fun _ _ => (if_neg ha).trans (if_pos hok)⟩
  · exact ⟨_, (if_neg ha).trans (if_neg hok), rfl, fun _ _ => (if_neg ha).trans (if_neg hok)⟩

/-- The stimuli below op 0x20 but `RESET` run beside the decoder; all but three compute to it without a case split. -/
theorem exec_besideDecoder {i : Instr} (hop : i.op.toNat < 0x20) (hne : i ≠ .reset) : BesideDecoder (exec i) := by
  cases i with
  | clk v => exact execClk_besideDecoder v
  | sel v => exact execSel_besideDecoder v
  | beginSession => exact execBegin_besideDecoder
  | reset => exact absurd rfl hne
  | din v | time dt | endSession | rxBytesAvailable | rxBytesRemaining | rxHasData | rxHasLostData | read | peek
  | write b | txIsFull | getResyncCount => exact fun _ => ⟨_, rfl, rfl, fun _ _ => rfl⟩
  | _ => simp [Instr.op] at hop

/-- The stimuli from op 0x20 on run on the decoder alone: none branches on anything outside it. -/
theorem exec_onDecoderAlone {i : Instr} (hop : 0x20 ≤ i.op.toNat) : OnDecoderAlone (exec i) := by
  cases i with
  | updateLsb b | updateMb b | updateMsb b | updateByte b index | updateDataBytes msb mb lsb | refresh
  | getRawMeasurement | getMeasurement | getUnit | getSign | getUnitString | getSignString | setNewData
  | clearNewData | isNewData | getPacketLength => exact fun _ => ⟨_, rfl, fun _ _ _ _ => rfl⟩
  | _ => simp [Instr.op] at hop

/-- Two runs on the decoder alone, from states with the same decoder. -/
theorem OnDecoderAlone.two_runs {f : State → Answer} (hf : OnDecoderAlone f) {s t : State}
    (hd : s.decoder = t.decoder) :
    ∃ s' t', f s = .next s' ∧ f t = .next t'
      ∧ s'.decoder = t'.decoder ∧ s'.io.result = t'.io.result ∧ s'.io.raised = t'.io.raised
      ∧ s'.slave = s.slave ∧ s'.env = s.env ∧ t'.slave = t.slave ∧ t'.env = t.env := by
  obtain ⟨s', -, h⟩ := hf s
  have ht := h t.params t.slave t.env t.io
  rw [hd] at ht
  exact ⟨_, _, h s.params s.slave s.env s.io, ht, rfl, rfl, rfl, rfl, rfl, rfl, rfl⟩

/-- Two runs beside the decoder, from states with the same parameters, slave and environment. -/
theorem BesideDecoder.two_runs {f : State → Answer} (hf : BesideDecoder f) {s t : State}
    (hp : s.params = t.params) (hs : s.slave = t.slave) (he : s.env = t.env) :
    ∃ s' t', f s = .next s' ∧ f t = .next t'
      ∧ s'.slave = t'.slave ∧ s'.env = t'.env ∧ s'.io.result = t'.io.result ∧ s'.io.raised = t'.io.raised := by
  obtain ⟨s', hs', -, h⟩ := hf s
  have ht := h t.decoder t.io
  rw [hp, hs, he] at ht
  exact ⟨s', _, hs', ht, rfl, rfl, rfl, rfl⟩

/-- Settles O48: each half of the machine runs on its own part of the state; `RESET`, which writes both, puts the slave
to a constant. -/
theorem decoderIsIndependentOfTheSlave : Obligations.DecoderIsIndependentOfTheSlave := by
  refine ⟨fun i s t hop hd => (exec_onDecoderAlone hop).two_runs hd, fun i s hop hne => ?_,
    fun i s t hop hp hs he => ?_⟩
  · obtain ⟨s', hs', hd, -⟩ := exec_besideDecoder hop hne s
    exact ⟨s', hs', hd⟩
  · by_cases hr : i = .reset
    · subst hr
      exact ⟨_, _, rfl, rfl, rfl, he, rfl, rfl⟩
    · exact (exec_besideDecoder hop hr).two_runs hp hs he

end Sys2Proof.Machine
end

section
/-! The words of the packet decoder's writers (spec/30_encoding.md R66, R68). -/

namespace Sys2Proof.Machine

section Words
variable (op : Byte) (arg : BitVec 24)

theorem opField_append : opField (op ++ arg) = op := BitVec.extractLsb'_append_eq_left
theorem argField_append : argField (op ++ arg) = arg := BitVec.extractLsb'_append_eq_right

variable (b msb mb lsb : Byte)

/-- Format B: zeros above the byte are accepted, and the byte comes out (R66). -/
theorem decodeB_append (make : Byte → Instr) : decodeB op (0#16 ++ b) make = .ok (make b) := by
  have hzero : (0#16 ++ b).extractLsb' 8 16 = 0 := BitVec.extractLsb'_append_eq_left
  have hbyte : argByte 0 (0#16 ++ b) = b := BitVec.extractLsb'_append_eq_right
  rw [decodeB, if_pos hzero, hbyte]

/-- Format P: the three bytes come out in the order they stand in (R66). -/
theorem decodeP_append (make : Byte → Byte → Byte → Instr) :
    decodeP (msb ++ mb ++ lsb) make = .ok (make msb mb lsb) := by
  have hmsb : argByte 2 (msb ++ mb ++ lsb) = msb :=
    (BitVec.extractLsb'_append_eq_of_le (by decide)).trans BitVec.extractLsb'_append_eq_left
  have hmb : argByte 1 (msb ++ mb ++ lsb) = mb :=
    (BitVec.extractLsb'_append_eq_of_le (by decide)).trans BitVec.extractLsb'_append_eq_right
  have hlsb : argByte 0 (msb ++ mb ++ lsb) = lsb := BitVec.extractLsb'_append_eq_right
  rw [decodeP, hmsb, hmb, hlsb]

/-- The word of format B as `op` and argument. -/
theorem word_of_byte : op ++ 0#16 ++ b = (op ++ (0#16 ++ b) : StimWord) := BitVec.append_assoc

/-- The word of format P as `op` and argument. -/
theorem word_of_packet : op ++ msb ++ mb ++ lsb = (op ++ (msb ++ mb ++ lsb) : StimWord) :=
  calc op ++ msb ++ mb ++ lsb = ((op ++ (msb ++ mb) : BitVec 24) ++ lsb : StimWord) :=
      congrArg (fun upper : BitVec 24 => upper ++ lsb) BitVec.append_assoc
    _ = op ++ (msb ++ mb ++ lsb) := BitVec.append_assoc

theorem decode_updateLsb : decode (0x20#8 ++ 0#16 ++ b) = .ok (.updateLsb b) := by
  rw [word_of_byte, decode, opField_append, argField_append]
  exact decodeB_append 0x20#8 b .updateLsb

theorem decode_updateMb : decode (0x21#8 ++ 0#16 ++ b) = .ok (.updateMb b) := by
  rw [word_of_byte, decode, opField_append, argField_append]
  exact decodeB_append 0x21#8 b .updateMb

theorem decode_updateMsb : decode (0x22#8 ++ 0#16 ++ b) = .ok (.updateMsb b) := by
  rw [word_of_byte, decode, opField_append, argField_append]
  exact decodeB_append 0x22#8 b .updateMsb

theorem decode_updateDataBytes : decode (0x24#8 ++ msb ++ mb ++ lsb) = .ok (.updateDataBytes msb mb lsb) := by
  rw [word_of_packet, decode, opField_append, argField_append]
  exact decodeP_append msb mb lsb .updateDataBytes

end Words

end Sys2Proof.Machine
end

section
/-! The writers of the packet decoder and its flag accessors (spec/42_packet_decoder.md R120 to R124, R132 to R135). -/

namespace Sys2Proof.Machine

/-- A writer ends with no result and no condition; every other field stays (R75). -/
theorem done_eq (s : State) : s.done = .next { s with io := { s.io with result := none, raised := [] } } := rfl

section FlagWrites
variable (d : Decoder) (v : Bool)
@[simp] theorem setNewData_newData : (d.setNewData v).newData = v := rfl
@[simp] theorem setNewData_wsel : (d.setNewData v).wsel = d.wsel := rfl
@[simp] theorem setNewData_writeTarget : (d.setNewData v).writeTarget = d.writeTarget := rfl
@[simp] theorem setNewData_readTarget : (d.setNewData v).readTarget = d.readTarget := rfl
end FlagWrites

/-- What the three named writers share: byte `k` of the write-target slot is written, and nothing else (R120 to R122). -/
theorem writeByte_done (k : Nat) (b : Byte) (s : State) :
    ∃ t, (s.withDecoder (s.decoder.writeByte k b)).done = .next t
      ∧ t.decoder.writeTarget = s.decoder.writeTarget.setByte k b
      ∧ t.decoder.readTarget = s.decoder.readTarget ∧ t.decoder.wsel = s.decoder.wsel
      ∧ t.decoder.newData = s.decoder.newData ∧ t.slave = s.slave ∧ t.env = s.env ∧ t.params = s.params
      ∧ t.io = { s.io with result := none, raised := [] } :=
  ⟨_, rfl, writeByte_writeTarget s.decoder k b, writeByte_readTarget s.decoder k b, writeByte_wsel s.decoder k b,
    writeByte_newData s.decoder k b, rfl, rfl, rfl, rfl⟩

/-- Settles O39: the three words, and the byte write with the index of each name. -/
theorem namedWritersWriteOneByte : Obligations.NamedWritersWriteOneByte := by
  intro b s
  exact ⟨decode_updateLsb b, decode_updateMb b, decode_updateMsb b,
    writeByte_done 0 b s, writeByte_done 1 b s, writeByte_done 2 b s⟩

/-- Settles O41: the word, and three byte writes before the flag. -/
theorem updateDataBytesWritesThePacket : Obligations.UpdateDataBytesWritesThePacket := by
  intro msb mb lsb s
  refine ⟨decode_updateDataBytes msb mb lsb, _, rfl, ?_, rfl, ?_, ?_, rfl, rfl, rfl, rfl⟩
  · simp [writeByte_writeTarget, Slot.setByte]
  · simp
  · simp

section FlagAccessors
variable (s : State)

theorem exec_setNewData : exec .setNewData s = (s.withDecoder (s.decoder.setNewData true)).done := rfl
theorem exec_clearNewData : exec .clearNewData s = (s.withDecoder (s.decoder.setNewData false)).done := rfl
theorem exec_isNewData : exec .isNewData s = s.answer (.boolean s.decoder.newData) := rfl
theorem exec_getPacketLength : exec .getPacketLength s = s.answer (.number 3) := rfl

end FlagAccessors

/-- Settles O46: the four words, the two flag writes, and the two answers. -/
theorem flagAccessorsAndPacketLength : Obligations.FlagAccessorsAndPacketLength := by
  refine ⟨rfl, rfl, rfl, rfl, fun s => ⟨?_, ?_, ?_, ?_⟩⟩
  · exact (exec_setNewData s).trans (done_eq _)
  · exact (exec_clearNewData s).trans (done_eq _)
  · rw [exec_isNewData, answer_eq]
  · rw [exec_getPacketLength, answer_eq]

end Sys2Proof.Machine
end

section
/-! The overflow of the receive ring (spec/60_exceptions.md R142, R148). -/

namespace Sys2Proof.Machine

/-- A tick that completes a byte finds nothing to abandon: a resynchronised one is handled at count 0 (R88, R148). -/
theorem State.not_restarts_of_tickIndex {s : State} (h15 : s.tickIndex = 15) : ¬ s.restarts := by
  intro hr
  rw [State.tickIndex, if_pos hr] at h15
  omega

/-- A tick ends with the slave of step 7 and raises what steps 4 and 7 raise, in this order (R84). -/
theorem selectedTick_eq_pair (s : State) (v : Level) :
    selectedTick s.params { s.env with pinClk := v } s.slave
      = ((advance s.params (s.beforeAdvance v)).1,
         (resynchronise s.params { s.env with pinClk := v } (loadTransmit s.params s.slave)).2
           ++ (advance s.params (s.beforeAdvance v)).2) := rfl

/-- A tick that completes a byte raises what its push raises: step 4 adds no condition (R88, R92). -/
theorem selectedTick_of_tickIndex {s : State} (v : Level) (h15 : s.tickIndex = 15) :
    selectedTick s.params { s.env with pinClk := v } s.slave
      = ({ (receiveByte s.params (s.beforeAdvance v) (s.beforeAdvance v).rxShift).1 with dataIndex := 0 },
         (receiveByte s.params (s.beforeAdvance v) (s.beforeAdvance v).rxShift).2) := by
  have hquiet : (resynchronise s.params { s.env with pinClk := v } (loadTransmit s.params s.slave)).2 = [] := by
    obtain ⟨ht, -⟩ | ⟨-, e⟩ := resynchronise_cases s.params { s.env with pinClk := v } (loadTransmit s.params s.slave)
    · exact absurd ((timedOut_iff_restarts v s).1 ht) (State.not_restarts_of_tickIndex h15)
    · rw [e]
  have hpush := advance_of_eq s.params (s.beforeAdvance v) ((beforeAdvance_dataIndex s v).trans h15)
  rw [selectedTick_eq_pair, hquiet, hpush, List.nil_append]

/-- A byte received on a full ring sets the lost flag and raises the overflow (R142). -/
theorem receiveByte_of_full {p : Params} {sl : Slave} (hfull : sl.rx.count = p.rxCap.entries) (v : Byte) :
    receiveByte p sl v = ({ sl with rx := sl.rx.push p.rxCap v, rxLost := true }, [.overflow]) := by
  obtain ⟨-, e⟩ | ⟨hf, -⟩ := receiveByte_cases p sl v
  · exact e
  · simp [ByteRing.isFull_eq_decide, hfull] at hf

/-- Settles O22: the tick's push meets a full ring, where the oldest byte gives way. -/
theorem overflowDropsTheOldestByte : Obligations.OverflowDropsTheOldestByte := by
  intro v s hv ht ⟨hwf, _⟩ h15 hfull
  have hfull' : (s.beforeAdvance v).rx.count = s.params.rxCap.entries := by rw [beforeAdvance_rx, hfull]
  refine ⟨_, exec_clk_of_ticking hv ht, ?_⟩
  rw [selectedTick_of_tickIndex v h15, receiveByte_of_full hfull']
  refine ⟨?_, rfl, rfl⟩
  simp [ByteRing.queue_push_of_full hwf hfull]

end Sys2Proof.Machine
end

section
/-! The stimulus word and the opcode table: decoder and encoder are inverse, and a word is accepted exactly when it
selects a row (spec/30_encoding.md R66, R68, R69). -/

namespace Sys2Proof

open Sys2Proof.Machine

/-- A word is its `op` and its argument (R66). -/
theorem opField_append_argField (w : StimWord) : opField w ++ argField w = w := by
  rw [opField, argField, BitVec.extractLsb'_append_extractLsb'_eq_extractLsb' (by rfl)]
  exact BitVec.extractLsb'_eq_self

section Arguments
variable {hi lo : Nat} {arg : BitVec (hi + lo)}

/-- An argument whose upper bits are zero is its lower bits. -/
theorem argument_of_upper_zero (h : arg.extractLsb' lo hi = 0) : arg = 0#hi ++ arg.extractLsb' 0 lo := by
  have hsplit : arg.extractLsb' lo hi ++ arg.extractLsb' 0 lo = arg := by
    rw [BitVec.extractLsb'_append_extractLsb'_eq_extractLsb' (by simp)]
    exact BitVec.extractLsb'_eq_self
  rw [h] at hsplit
  exact hsplit.symm

/-- A mask over the upper bits is met by the arguments whose upper bits are zero. -/
theorem upper_zero_of_masked (h : arg &&& (BitVec.allOnes hi ++ 0#lo) = 0) : arg.extractLsb' lo hi = 0 := by
  have hmask : (arg &&& (BitVec.allOnes hi ++ 0#lo)).extractLsb' lo hi = arg.extractLsb' lo hi := by
    rw [BitVec.extractLsb'_and, BitVec.extractLsb'_append_eq_left, BitVec.and_allOnes]
  rw [← hmask, h]
  simp

theorem zero_append_masked (x : BitVec lo) : (0#hi ++ x) &&& (BitVec.allOnes hi ++ 0#lo) = 0 := by
  rw [BitVec.and_append]
  simp
end Arguments

/-- Format V: a level comes back from its argument (R66). -/
theorem argument_of_level {arg : BitVec 24} (h : arg.extractLsb' 1 23 = 0) :
    arg = 0#23 ++ BitVec.ofBool (arg.getLsbD 0) := by
  have hbit : arg.extractLsb' 0 1 = BitVec.ofBool (arg.getLsbD 0) := by
    ext k hk
    obtain rfl : k = 0 := by omega
    simp
  rw [← hbit]
  exact argument_of_upper_zero h

/-! ### Decoding an encoding -/

/-- The fields of an encoding are the two columns it is made of (R66). -/
theorem opField_encode (i : Instr) : opField (encode i) = i.op := opField_append i.op i.arg
theorem argField_encode (i : Instr) : argField (encode i) = i.arg := argField_append i.op i.arg

/-- Format T: a number below 2^24 comes back (R66). -/
theorem decodeT_ofNat {dt : Nat} (h : dt < 2 ^ 24) (make : Nat → Instr) :
    decodeT (BitVec.ofNat 24 dt) make = .ok (make dt) := by
  rw [decodeT, BitVec.toNat_ofNat, Nat.mod_eq_of_lt h]

/-- Format BI: the byte and an index below 2^8 come back (R66). -/
theorem decodeBI_append (op b : Byte) {index : Nat} (h : index < 2 ^ 8) (make : Byte → Nat → Instr) :
    decodeBI op (0#8 ++ BitVec.ofNat 8 index ++ b) make = .ok (make b index) := by
  have hzero : argByte 2 (0#8 ++ BitVec.ofNat 8 index ++ b) = 0 :=
    (BitVec.extractLsb'_append_eq_of_le (by decide)).trans BitVec.extractLsb'_append_eq_left
  have hindex : argByte 1 (0#8 ++ BitVec.ofNat 8 index ++ b) = BitVec.ofNat 8 index :=
    (BitVec.extractLsb'_append_eq_of_le (by decide)).trans BitVec.extractLsb'_append_eq_right
  have hbyte : argByte 0 (0#8 ++ BitVec.ofNat 8 index ++ b) = b := BitVec.extractLsb'_append_eq_right
  rw [decodeBI, if_pos hzero, hindex, hbyte, BitVec.toNat_ofNat, Nat.mod_eq_of_lt h]

/-- Settles O1: format by format, the argument of a well-formed stimulus gives its operands back. -/
theorem encodeThenDecodeGivesStimulus : Obligations.EncodeThenDecodeGivesStimulus := by
  intro i hwf
  rw [decode, opField_encode, argField_encode]
  cases i with
  | clk v | sel v | din v => cases v <;> rfl
  | time dt => exact decodeT_ofNat (of_decide_eq_true hwf) .time
  | write b => exact decodeB_append 0x18#8 b .write
  | updateLsb b => exact decodeB_append 0x20#8 b .updateLsb
  | updateMb b => exact decodeB_append 0x21#8 b .updateMb
  | updateMsb b => exact decodeB_append 0x22#8 b .updateMsb
  | updateByte b index => exact decodeBI_append 0x23#8 b (of_decide_eq_true hwf) .updateByte
  | updateDataBytes msb mb lsb => exact decodeP_append msb mb lsb .updateDataBytes
  | _ => rfl

/-! ### Encoding what was decoded -/

/-- `i` is well formed, and its word is `op` and `arg`. -/
def Instr.HasFields (i : Instr) (op : Byte) (arg : BitVec 24) : Prop := i.wellFormed = true ∧ i.op = op ∧ i.arg = arg

section Sound
variable {op : Byte} {arg : BitVec 24} {i : Instr}

/-- Format N (R66). -/
theorem decodeN_hasFields {j : Instr} (h : decodeN op arg j = .ok i) (hj : j.HasFields op 0) :
    i.HasFields op arg := by
  rw [decodeN] at h
  split at h
  case isTrue harg => cases h; exact harg ▸ hj
  case isFalse => cases h

/-- Format V (R66). -/
theorem decodeV_hasFields {make : Level → Instr} (h : decodeV op arg make = .ok i)
    (hmake : ∀ v, (make v).HasFields op (0#23 ++ BitVec.ofBool v)) : i.HasFields op arg := by
  rw [decodeV] at h
  split at h
  case isTrue hzero =>
    cases h
    have := hmake (arg.getLsbD 0)
    rwa [← argument_of_level hzero] at this
  case isFalse => cases h

/-- Format T (R66). -/
theorem decodeT_hasFields {make : Nat → Instr} (h : decodeT arg make = .ok i)
    (hmake : ∀ dt, dt < 2 ^ 24 → (make dt).HasFields op (BitVec.ofNat 24 dt)) : i.HasFields op arg := by
  cases h
  simpa using hmake arg.toNat arg.isLt

/-- Format B (R66). -/
theorem decodeB_hasFields {make : Byte → Instr} (h : decodeB op arg make = .ok i)
    (hmake : ∀ b, (make b).HasFields op (0#16 ++ b)) : i.HasFields op arg := by
  rw [decodeB] at h
  split at h
  case isTrue hzero =>
    cases h
    have := hmake (argByte 0 arg)
    rwa [argByte, ← argument_of_upper_zero (hi := 16) (lo := 8) hzero] at this
  case isFalse => cases h

/-- The three bytes of an argument, from the top byte down. -/
theorem argument_of_bytes (arg : BitVec 24) : argByte 2 arg ++ argByte 1 arg ++ argByte 0 arg = arg := by
  have hupper : argByte 2 arg ++ argByte 1 arg = arg.extractLsb' 8 16 :=
    BitVec.extractLsb'_append_extractLsb'_eq_extractLsb' (by rfl)
  rw [hupper, argByte, BitVec.extractLsb'_append_extractLsb'_eq_extractLsb' (by rfl)]
  exact BitVec.extractLsb'_eq_self

/-- Format BI (R66). -/
theorem decodeBI_hasFields {make : Byte → Nat → Instr} (h : decodeBI op arg make = .ok i)
    (hmake : ∀ b index, index < 2 ^ 8 → (make b index).HasFields op (0#8 ++ BitVec.ofNat 8 index ++ b)) :
    i.HasFields op arg := by
  rw [decodeBI] at h
  split at h
  case isTrue hzero =>
    cases h
    have hfields := hmake (argByte 0 arg) (argByte 1 arg).toNat (argByte 1 arg).isLt
    have hbytes := argument_of_bytes arg
    rw [hzero] at hbytes
    rwa [BitVec.ofNat_toNat, BitVec.setWidth_eq, show 0#8 = (0 : Byte) from rfl, hbytes] at hfields
  case isFalse => cases h

/-- Format P (R66). -/
theorem decodeP_hasFields {make : Byte → Byte → Byte → Instr} (h : decodeP arg make = .ok i)
    (hmake : ∀ msb mb lsb, (make msb mb lsb).HasFields op (msb ++ mb ++ lsb)) : i.HasFields op arg := by
  cases h
  have := hmake (argByte 2 arg) (argByte 1 arg) (argByte 0 arg)
  rwa [argument_of_bytes] at this

end Sound

/-- An `op` is known by its number. -/
theorem op_of_toNat {op : Byte} {n : Nat} (h : op.toNat = n) : BitVec.ofNat 8 n = op := by
  rw [← h, BitVec.ofNat_toNat, BitVec.setWidth_eq]

/-- The stimulus of an accepted word has the word's fields: every row of the opcode map pairs an `op` with the format
and the stimulus of that `op` (R68). -/
theorem decode_hasFields {w : StimWord} {i : Instr} (h : decode w = .ok i) : i.HasFields (opField w) (argField w) := by
  simp only [decode] at h
  split at h
  case h_33 => cases h
  all_goals
    rename_i hop
    replace hop := op_of_toNat hop
  case h_1 | h_2 | h_3 => exact decodeV_hasFields h fun _ => ⟨rfl, hop, rfl⟩
  case h_4 => exact decodeT_hasFields h fun _ hdt => ⟨decide_eq_true hdt, hop, rfl⟩
  case h_14 | h_17 | h_18 | h_19 => exact decodeB_hasFields h fun _ => ⟨rfl, hop, rfl⟩
  case h_20 => exact decodeBI_hasFields h fun _ _ hindex => ⟨decide_eq_true hindex, hop, rfl⟩
  case h_21 => exact decodeP_hasFields h fun _ _ _ => ⟨rfl, hop, rfl⟩
  all_goals exact decodeN_hasFields h ⟨rfl, hop, rfl⟩

/-- Settles O2: a word is made of its two fields, and those are the stimulus's. -/
theorem decodedWordIsItsEncoding : Obligations.DecodedWordIsItsEncoding := by
  intro w i h
  obtain ⟨hwf, hop, harg⟩ := decode_hasFields h
  exact ⟨hwf, by rw [encode, hop, harg, opField_append_argField]⟩

/-! ### The opcode table -/

/-- `r` is the row of `op` and `f` (R68). -/
def TableRow.HasColumns (r : TableRow) (op : Byte) (f : Format) : Prop := r.matchBits = op ++ 0#24 ∧ r.mask = f.mask

/-- The argument bits that are zero, format by format (R66). -/
def Format.argMask : Format → BitVec 24
  | .n => BitVec.allOnes 24
  | .v => BitVec.allOnes 23 ++ 0#1
  | .t => 0#24
  | .b => BitVec.allOnes 16 ++ 0#8
  | .bi => BitVec.allOnes 8 ++ 0#16
  | .p => 0#24

/-- A mask keeps the whole `op` and the zero bits of the argument (R68). -/
theorem mask_eq (f : Format) : f.mask = BitVec.allOnes 8 ++ f.argMask := by cases f <;> rfl

/-- A word selects a row when it has its `op` and zeros where its format wants them (R68). -/
theorem selectedBy_iff {r : TableRow} {op : Byte} {f : Format} (hr : r.HasColumns op f) (w : StimWord) :
    r.selectedBy w = true ↔ opField w = op ∧ argField w &&& f.argMask = 0 := by
  obtain ⟨hmatch, hmask⟩ := hr
  have hand : w &&& f.mask = opField w ++ (argField w &&& f.argMask) := by
    conv_lhs => rw [← opField_append_argField w, mask_eq, BitVec.and_append]
    rw [BitVec.and_allOnes]
  rw [TableRow.selectedBy, hmatch, hmask, hand, beq_iff_eq]
  constructor
  · intro h
    have hop := congrArg opField h
    have harg := congrArg argField h
    rw [opField_append, opField_append] at hop
    rw [argField_append, argField_append] at harg
    exact ⟨hop, harg⟩
  · rintro ⟨hop, harg⟩
    rw [hop, harg]
    rfl

/-- Some stimulus of each row, in the order of the opcode table (R68). -/
def rowStimuli : List Instr :=
  [.clk false, .sel false, .din false, .time 0, .reset, .beginSession, .endSession, .rxBytesAvailable, .rxBytesRemaining,
   .rxHasData, .rxHasLostData, .read, .peek, .write 0, .txIsFull, .getResyncCount, .updateLsb 0, .updateMb 0,
   .updateMsb 0, .updateByte 0 0, .updateDataBytes 0 0 0, .refresh, .getRawMeasurement, .getMeasurement, .getUnit,
   .getSign, .getUnitString, .getSignString, .setNewData, .clearNewData, .isNewData, .getPacketLength]

/-- Every row is the row of some stimulus (R68). -/
theorem exists_stimulus_of_row : ∀ r ∈ opcodeTable, ∃ i : Instr, r.HasColumns i.op i.format := by
  have h : ∀ r ∈ opcodeTable, ∃ i ∈ rowStimuli, r.matchBits = i.op ++ 0#24 ∧ r.mask = i.format.mask := by decide
  intro r hr
  obtain ⟨i, -, hi⟩ := h r hr
  exact ⟨i, hi⟩

/-- Every stimulus has a row (R68). -/
theorem exists_row_of_stimulus (i : Instr) : ∃ r ∈ opcodeTable, r.HasColumns i.op i.format := by
  unfold TableRow.HasColumns
  cases i <;> dsimp only [Instr.op, Instr.format] <;> decide

/-- No two rows share an `op` (R68). -/
theorem row_unique_of_matchBits : ∀ r ∈ opcodeTable, ∀ r' ∈ opcodeTable, r.matchBits = r'.matchBits → r = r' := by
  decide

/-- No word selects two rows (R68). -/
theorem row_unique_of_selectedBy {r r' : TableRow} {w : StimWord} (hr : r ∈ opcodeTable) (hr' : r' ∈ opcodeTable)
    (hw : r.selectedBy w = true) (hw' : r'.selectedBy w = true) : r' = r := by
  obtain ⟨i, hi⟩ := exists_stimulus_of_row r hr
  obtain ⟨j, hj⟩ := exists_stimulus_of_row r' hr'
  obtain ⟨hop, -⟩ := (selectedBy_iff hi w).1 hw
  obtain ⟨hop', -⟩ := (selectedBy_iff hj w).1 hw'
  exact row_unique_of_matchBits r' hr' r hr (by rw [hi.1, hj.1, ← hop, ← hop'])

/-- The argument of a stimulus is zero where its format wants it (R66). -/
theorem arg_and_argMask (i : Instr) : i.arg &&& i.format.argMask = 0 := by
  cases i with
  | clk _ | sel _ | din _ | write _ | updateLsb _ | updateMb _ | updateMsb _ => exact zero_append_masked _
  | time _ | updateDataBytes _ _ _ => exact BitVec.and_zero
  | updateByte b index =>
    have happend : 0#8 ++ BitVec.ofNat 8 index ++ b = 0#8 ++ (BitVec.ofNat 8 index ++ b : BitVec 16) :=
      BitVec.append_assoc
    rw [Instr.arg, happend]
    exact zero_append_masked _
  | _ => rfl

/-- An argument that is zero where the format of `i` wants it belongs to a well-formed stimulus with the `op` of `i`
(R66). -/
theorem exists_stimulus_of_argument (i : Instr) {arg : BitVec 24} (h : arg &&& i.format.argMask = 0) :
    ∃ j : Instr, j.HasFields i.op arg := by
  have hlevel (hv : arg &&& Format.v.argMask = 0) : 0#23 ++ BitVec.ofBool (arg.getLsbD 0) = arg :=
    (argument_of_level (upper_zero_of_masked (hi := 23) (lo := 1) hv)).symm
  have hbyte (hb : arg &&& Format.b.argMask = 0) : 0#16 ++ argByte 0 arg = arg :=
    (argument_of_upper_zero (upper_zero_of_masked (hi := 16) (lo := 8) hb)).symm
  cases i with
  | clk _ => exact ⟨.clk (arg.getLsbD 0), rfl, rfl, hlevel h⟩
  | sel _ => exact ⟨.sel (arg.getLsbD 0), rfl, rfl, hlevel h⟩
  | din _ => exact ⟨.din (arg.getLsbD 0), rfl, rfl, hlevel h⟩
  | time _ => exact ⟨.time arg.toNat, decide_eq_true arg.isLt, rfl, by simp [Instr.arg]⟩
  | write _ => exact ⟨.write (argByte 0 arg), rfl, rfl, hbyte h⟩
  | updateLsb _ => exact ⟨.updateLsb (argByte 0 arg), rfl, rfl, hbyte h⟩
  | updateMb _ => exact ⟨.updateMb (argByte 0 arg), rfl, rfl, hbyte h⟩
  | updateMsb _ => exact ⟨.updateMsb (argByte 0 arg), rfl, rfl, hbyte h⟩
  | updateByte _ _ =>
    have hzero : argByte 2 arg = 0 := upper_zero_of_masked (hi := 8) (lo := 16) h
    have hbytes := argument_of_bytes arg
    rw [hzero] at hbytes
    refine ⟨.updateByte (argByte 0 arg) (argByte 1 arg).toNat, decide_eq_true (argByte 1 arg).isLt, rfl, ?_⟩
    rwa [Instr.arg, BitVec.ofNat_toNat, BitVec.setWidth_eq]
  | updateDataBytes _ _ _ =>
    exact ⟨.updateDataBytes (argByte 2 arg) (argByte 1 arg) (argByte 0 arg), rfl, rfl, argument_of_bytes arg⟩
  | _ => exact ⟨_, rfl, rfl, h.symm.trans BitVec.and_allOnes⟩

/-- The word of a stimulus selects the stimulus's row (R68). -/
theorem encode_selectsRow {i : Instr} {r : TableRow} (hr : r.HasColumns i.op i.format) :
    r.selectedBy (encode i) = true := by
  rw [selectedBy_iff hr, opField_encode, argField_encode]
  exact ⟨rfl, arg_and_argMask i⟩

/-- A word that selects a row is accepted (R68, R69). -/
theorem exists_decode_of_selectedBy {w : StimWord} {r : TableRow} (hr : r ∈ opcodeTable) (hw : r.selectedBy w = true) :
    ∃ i, decode w = .ok i := by
  obtain ⟨i, hi⟩ := exists_stimulus_of_row r hr
  obtain ⟨hop, harg⟩ := (selectedBy_iff hi w).1 hw
  obtain ⟨j, hwf, hjop, hjarg⟩ := exists_stimulus_of_argument i harg
  have hword : encode j = w := by rw [encode, hjop, hjarg, ← hop, opField_append_argField]
  exact ⟨j, hword ▸ encodeThenDecodeGivesStimulus j hwf⟩

/-- The mnemonic of a stimulus is that of the one row its word selects (R68, R72). -/
theorem mnemonic_eq {i : Instr} {r : TableRow} (hr : r ∈ opcodeTable) (hw : r.selectedBy (encode i) = true) :
    i.mnemonic = some r.mnemonic := by
  have hfind : opcodeTable.find? (·.selectedBy (encode i)) = some r := by
    cases hf : opcodeTable.find? (·.selectedBy (encode i)) with
    | none => exact absurd hw (List.find?_eq_none.1 hf r hr)
    | some r' =>
      have hw' : r'.selectedBy (encode i) = true :=
        List.find?_some (p := fun row : TableRow => row.selectedBy (encode i)) hf
      rw [row_unique_of_selectedBy hr (List.mem_of_find?_eq_some hf) hw hw']
  rw [Instr.mnemonic, hfind]
  rfl

/-- Settles O3: an accepted word is an encoding, which selects its stimulus's row; no word selects two rows, and a word
that selects one is accepted. -/
theorem decoderFollowsTheOpcodeTable : Obligations.DecoderFollowsTheOpcodeTable := by
  intro w
  refine ⟨fun i hi => ?_, fun why hwhy r hr => ?_⟩
  · obtain ⟨-, rfl⟩ := decodedWordIsItsEncoding w i hi
    obtain ⟨r, hr, hcolumns⟩ := exists_row_of_stimulus i
    have hw := encode_selectsRow hcolumns
    exact ⟨r, hr, hw, mnemonic_eq hr hw, fun r' hr' hw' => row_unique_of_selectedBy hr hr' hw hw'⟩
  · by_contra hw
    obtain ⟨i, hi⟩ := exists_decode_of_selectedBy hr (Bool.eq_true_of_not_eq_false hw)
    rw [hi] at hwhy
    cases hwhy

/-- Settles O4: the seven words, decoded. -/
theorem sampleWordsDecode : Obligations.SampleWordsDecode := ⟨rfl, rfl, rfl, rfl, rfl, rfl, rfl⟩

end Sys2Proof
end

section
/-! The rings as queues: what a pop and a peek see of the bytes held (spec/20_memory.md R42, R45, R46). -/

namespace Sys2Proof.Machine

section Pop
variable (cap : Capacity) (r : ByteRing)

theorem ByteRing.queue_of_empty {r : ByteRing} (h : r.count = 0) : r.queue cap = [] := by simp [ByteRing.queue, h]

/-- A ring that holds a byte is the byte a pop takes and the ring it leaves (R45). -/
theorem ByteRing.queue_eq_pop {r : ByteRing} (h : r.count ≠ 0) :
    r.queue cap = (r.pop cap).1 :: (r.pop cap).2.queue cap := by
  obtain ⟨h0, -⟩ | ⟨-, e⟩ := ByteRing.pop_cases cap r
  · exact absurd h0 h
  obtain ⟨n, hn⟩ := Nat.exists_eq_succ_of_ne_zero h
  have haddr (j : Nat) : (r.pop cap).2.addr cap j = r.addr cap (j + 1) :=
    ByteRing.addr_of_head_succ (by rw [e]) j
  have hcount : (r.pop cap).2.count = n := by rw [e, hn]; rfl
  simp only [ByteRing.queue, hn, hcount, haddr, ByteRing.pop_mem, List.range_succ_eq_map, List.map_cons, List.map_map]
  rw [e]
  rfl

/-- A pop takes the oldest byte, 0x00 if there is none (R45). -/
theorem ByteRing.pop_fst : (r.pop cap).1 = (r.queue cap).headD 0x00#8 := by
  by_cases h : r.count = 0
  · simp [ByteRing.queue_of_empty cap h, ByteRing.pop, h]
  · rw [ByteRing.queue_eq_pop cap h]; rfl

/-- A pop leaves the other bytes (R45). -/
theorem ByteRing.queue_pop : (r.pop cap).2.queue cap = (r.queue cap).tail := by
  by_cases h : r.count = 0
  · simp [ByteRing.queue_of_empty cap h, ByteRing.pop, h]
  · rw [ByteRing.queue_eq_pop cap h]; rfl

/-- A peek sees the byte a pop would take (R46). -/
theorem ByteRing.peek_eq : r.peek cap = (r.queue cap).headD 0x00#8 := by
  rw [← ByteRing.pop_fst, ByteRing.pop, ByteRing.peek]
  split <;> rfl

end Pop

end Sys2Proof.Machine
end

section
/-! A whole tick of the clock-edge handler as one equation (spec/40_spi_slave_events.md R84 to R92): what every field of
the state is after it. The statements about single ticks are read off it. -/

namespace Sys2Proof.Machine

section Steps
variable (p : Params) (e : Env) (sl : Slave)

@[simp] theorem loadTransmit_rxShift : (loadTransmit p sl).rxShift = sl.rxShift := by
  obtain h | h | h := loadTransmit_cases p sl <;> rw [h]
@[simp] theorem loadTransmit_resyncCount : (loadTransmit p sl).resyncCount = sl.resyncCount := by
  obtain h | h | h := loadTransmit_cases p sl <;> rw [h]
@[simp] theorem loadTransmit_active : (loadTransmit p sl).active = sl.active := by
  obtain h | h | h := loadTransmit_cases p sl <;> rw [h]
@[simp] theorem loadTransmit_doutLevel : (loadTransmit p sl).doutLevel = sl.doutLevel := by
  obtain h | h | h := loadTransmit_cases p sl <;> rw [h]
@[simp] theorem loadTransmit_doutDir : (loadTransmit p sl).doutDir = sl.doutDir := by
  obtain h | h | h := loadTransmit_cases p sl <;> rw [h]

/-- Step 6, both kinds of edge (R90, R91). -/
theorem sampleOrShift_eq : sampleOrShift p e sl = { sl with
    rxShift := if isSampleEdge p e = true ∧ p.hasDin = true
      then assignBit sl.rxShift (bitnum p.bitOrder (sl.dataIndex.val / 2)) e.pinDin else sl.rxShift
    doutLevel := if isSampleEdge p e = false ∧ p.hasDout = true
      then if sl.dataIndex.val = 15 then false
        else bitAt sl.txShift (bitnum p.bitOrder ((sl.dataIndex.val + 1) / 2))
      else sl.doutLevel } := by
  have hlast : (sl.dataIndex.val + 1) / 2 ≤ 7 ↔ ¬ sl.dataIndex.val = 15 := by
    have := sl.dataIndex.isLt
    omega
  cases hs : isSampleEdge p e
  · cases hd : p.hasDout
    · simp [sampleOrShift, shiftBit, hs, hd]
    · by_cases h15 : sl.dataIndex.val = 15 <;> simp [sampleOrShift, shiftBit, hs, hd, hlast, h15, pos]
  · cases hd : p.hasDin <;> simp [sampleOrShift, sampleBit, hs, hd, pos]

/-- Mid-byte, step 3 does nothing (R87). -/
theorem loadTransmit_of_pos (h : 0 < sl.dataIndex.val) : loadTransmit p sl = sl := if_neg (by omega)

/-- Step 7 counts modulo 16, and pushes when it wraps (R92). -/
theorem advance_eq : advance p sl
    = ({ sl with
          dataIndex := Fin.ofNat 16 (sl.dataIndex.val + 1)
          rx := if sl.dataIndex.val = 15 then sl.rx.push p.rxCap sl.rxShift else sl.rx
          rxLost := sl.rxLost || decide (sl.dataIndex.val = 15) && sl.rx.isFull p.rxCap },
       if sl.dataIndex.val = 15 ∧ sl.rx.isFull p.rxCap = true then [.overflow] else []) := by
  obtain ⟨h, e⟩ | ⟨h15, e⟩ := advance_cases p sl
  · have hne : sl.dataIndex.val ≠ 15 := by omega
    have hmod : Fin.ofNat 16 (sl.dataIndex.val + 1) = ⟨sl.dataIndex.val + 1, h⟩ := Fin.ext (Nat.mod_eq_of_lt h)
    rw [e, hmod]
    simp [hne]
  · obtain ⟨hf, e'⟩ | ⟨hf, e'⟩ := receiveByte_cases p sl sl.rxShift <;> rw [e, e', h15] <;> simp [hf]

end Steps

/-- What the edge handler calls a sample edge is what the clock mode says of the new level (R6, R86). -/
theorem isSampleEdge_iff_samplesOn (v : Level) (s : State) :
    isSampleEdge s.params { s.env with pinClk := v } = true ↔ s.samplesOn v := by
  cases hm : s.params.clkMode <;> simp [isSampleEdge, sampleOnRising, State.samplesOn, hm]

/-- The slave after a tick to the level `v`, field by field (R87 to R92). -/
def State.tickedSlave (s : State) (v : Level) : Slave :=
  let loaded := loadTransmit s.params s.slave
  let rxShift := if s.samplesOn v ∧ s.params.hasDin = true
    then assignBit s.slave.rxShift (bitnum s.params.bitOrder (s.tickIndex / 2)) s.env.pinDin else s.slave.rxShift
  { s.slave with
    rxShift
    txShift := loaded.txShift
    dataIndex := Fin.ofNat 16 (s.tickIndex + 1)
    lastEdgeMs := s.env.nowMs
    resyncCount := if s.restarts then saturatingSucc s.slave.resyncCount else s.slave.resyncCount
    rx := if s.tickIndex = 15 then s.slave.rx.push s.params.rxCap rxShift else s.slave.rx
    rxLost := s.slave.rxLost || decide (s.tickIndex = 15) && s.slave.rx.isFull s.params.rxCap
    tx := loaded.tx
    doutLevel := if ¬ s.samplesOn v ∧ s.params.hasDout = true
      then if s.tickIndex = 15 then false else bitAt loaded.txShift (bitnum s.params.bitOrder ((s.tickIndex + 1) / 2))
      else s.slave.doutLevel }

/-- The conditions a tick raises: a timeout (R88) or an overflow (R92), never both (R148). -/
def State.tickRaised (s : State) : List Condition :=
  if s.restarts then [.clockTimeout]
  else if s.tickIndex = 15 ∧ s.slave.rx.isFull s.params.rxCap = true then [.overflow] else []

/-- The state after a tick to the level `v`. -/
def State.ticked (s : State) (v : Level) : State :=
  { s with
    slave := s.tickedSlave v
    env := { s.env with pinClk := v }
    io := { s.io with result := none, raised := s.tickRaised } }

/-- Steps 3 to 7 at the new level are the tick. -/
theorem selectedTick_eq (s : State) (v : Level) :
    selectedTick s.params { s.env with pinClk := v } s.slave = (s.tickedSlave v, s.tickRaised) := by
  have hsample := isSampleEdge_iff_samplesOn v s
  have hshift : isSampleEdge s.params { s.env with pinClk := v } = false ↔ ¬ s.samplesOn v := by simp [← hsample]
  have htimeout := timedOut_iff_restarts v s
  obtain ⟨ht, e⟩ | ⟨ht, e⟩ := resynchronise_cases s.params { s.env with pinClk := v } (loadTransmit s.params s.slave)
  · have hr : s.restarts := htimeout.1 ht
    have hk : s.tickIndex = 0 := if_pos hr
    rw [State.tickedSlave, State.tickRaised, if_pos hr, if_pos hr, hk]
    simp [selectedTick, e, sampleOrShift_eq, advance_eq, hsample, hshift]
  · have hr : ¬ s.restarts := fun hr => by simp [htimeout.2 hr] at ht
    have hk : s.tickIndex = s.slave.dataIndex.val := if_neg hr
    rw [State.tickedSlave, State.tickRaised, if_neg hr, if_neg hr, hk]
    simp [selectedTick, e, sampleOrShift_eq, advance_eq, hsample, hshift]

/-! What a tick makes of each field that it may change. -/

section Ticked
variable (s : State) (v : Level)

theorem ticked_rxShift : (s.ticked v).slave.rxShift
    = if s.samplesOn v ∧ s.params.hasDin = true
      then assignBit s.slave.rxShift (bitnum s.params.bitOrder (s.tickIndex / 2)) s.env.pinDin
      else s.slave.rxShift := rfl
theorem ticked_txShift : (s.ticked v).slave.txShift = (loadTransmit s.params s.slave).txShift := rfl
theorem ticked_tx : (s.ticked v).slave.tx = (loadTransmit s.params s.slave).tx := rfl
theorem ticked_dataIndex : (s.ticked v).slave.dataIndex.val = (s.tickIndex + 1) % 16 := rfl
theorem ticked_rx : (s.ticked v).slave.rx
    = if s.tickIndex = 15 then s.slave.rx.push s.params.rxCap (s.ticked v).slave.rxShift else s.slave.rx := rfl
theorem ticked_rxLost : (s.ticked v).slave.rxLost
    = (s.slave.rxLost || decide (s.tickIndex = 15) && s.slave.rx.isFull s.params.rxCap) := rfl
theorem ticked_resyncCount : (s.ticked v).slave.resyncCount
    = if s.restarts then saturatingSucc s.slave.resyncCount else s.slave.resyncCount := rfl
theorem ticked_doutLevel : (s.ticked v).slave.doutLevel
    = if ¬ s.samplesOn v ∧ s.params.hasDout = true
      then if s.tickIndex = 15 then false
        else bitAt (s.ticked v).slave.txShift (bitnum s.params.bitOrder ((s.tickIndex + 1) / 2))
      else s.slave.doutLevel := rfl
theorem ticked_raised : (s.ticked v).io.raised = s.tickRaised := rfl
end Ticked

/-- A clock edge handled as a tick answers the ticked state (R80, R84). -/
theorem exec_clk_ticked {v : Level} {s : State} (hv : v ≠ s.env.pinClk) (ht : s.ticking) :
    exec (.clk v) s = .next (s.ticked v) := by
  rw [exec_clk_of_ticking hv ht, selectedTick_eq]
  rfl

/-- Settles O11: without an edge or while inactive the two guards of `CLK` fail. -/
theorem clkWithoutHandlerOnlyMovesThePin : Obligations.ClkWithoutHandlerOnlyMovesThePin := by
  rintro v s (rfl | hinactive)
  · exact if_pos rfl
  · by_cases hv : v = s.env.pinClk
    · subst hv
      exact if_pos rfl
    · exact (if_neg hv).trans (if_neg (by simp [hinactive]))

/-- Settles O15: the handler's early return. -/
theorem deselectedEdgeAbandonsTheByte : Obligations.DeselectedEdgeAbandonsTheByte := by
  intro v s hv hactive hsel hpin
  have hd : deselected s.params { s.env with pinClk := v } = true := by simp [deselected, hsel, hpin]
  simp only [exec, execClk, clockEdgeHandler, if_neg hv, if_pos hactive, if_pos hd]
  rfl

/-- What `CLK` can do: no handler, the early return, or a tick (R80, R84, R85). -/
theorem exec_clk_cases (v : Level) (s : State) :
    exec (.clk v) s = .next
        { s with env := { s.env with pinClk := v }, io := { s.io with result := none, raised := [] } }
      ∨ exec (.clk v) s = .next { s with
          slave := { s.slave with dataIndex := 0, lastEdgeMs := s.env.nowMs }
          env := { s.env with pinClk := v }
          io := { s.io with result := none, raised := [] } }
      ∨ (v ≠ s.env.pinClk ∧ s.ticking ∧ exec (.clk v) s = .next (s.ticked v)) := by
  by_cases hidle : v = s.env.pinClk ∨ s.slave.active = false
  · exact .inl (clkWithoutHandlerOnlyMovesThePin v s hidle)
  obtain ⟨hv, hactive⟩ := not_or.1 hidle
  rw [Bool.not_eq_false] at hactive
  cases hd : deselected s.params s.env
  · exact .inr (.inr ⟨hv, ⟨hactive, hd⟩, exec_clk_ticked hv ⟨hactive, hd⟩⟩)
  · simp only [deselected, Bool.and_eq_true, bne_iff_ne] at hd
    exact .inr (.inl (deselectedEdgeAbandonsTheByte v s hv hactive hd.1 hd.2))

/-- Settles O16: read off the ticked state. -/
theorem clkTickFrame : Obligations.ClkTickFrame := by
  intro v s hv ht
  exact ⟨_, exec_clk_ticked hv ht, rfl, ht.1, rfl, rfl, rfl, rfl, rfl, rfl⟩

/-- At the start of a byte, step 3 takes a byte off the transmit queue, zeros if it is empty (R87). -/
theorem loadTransmit_of_start (p : Params) {sl : Slave} (h : sl.dataIndex.val = 0) :
    (loadTransmit p sl).txShift = (sl.tx.queue p.txCap).headD 0x00#8
      ∧ (loadTransmit p sl).tx = (sl.tx.pop p.txCap).2 := by
  by_cases hc : sl.tx.count = 0
  · simp [loadTransmit, h, hc, ByteRing.queue_of_empty, ByteRing.pop]
  · simp [loadTransmit, h, Nat.pos_of_ne_zero hc, ByteRing.pop_fst]

/-- Settles O17: step 3, the queue split at its head. -/
theorem clkTickLoadsTheTransmitByte : Obligations.ClkTickLoadsTheTransmitByte := by
  intro v s hv ht
  refine ⟨_, exec_clk_ticked hv ht, ?_⟩
  rw [ticked_txShift, ticked_tx]
  refine ⟨fun h0 => ?_, fun hpos => ?_⟩
  · obtain ⟨hshift, htx⟩ := loadTransmit_of_start s.params h0
    have hqueue := ByteRing.queue_pop s.params.txCap s.slave.tx
    have hlen := ByteRing.queue_length s.params.txCap s.slave.tx
    rw [hshift, htx]
    cases hq : s.slave.tx.queue s.params.txCap with
    | nil =>
      have hcount : s.slave.tx.count = 0 := by rw [← hlen, hq, List.length_nil]
      exact ⟨rfl, by rw [ByteRing.pop, if_pos hcount]⟩
    | cons b q => exact ⟨rfl, by rw [hqueue, hq, List.tail_cons]⟩
  · rw [loadTransmit_of_pos s.params s.slave hpos]
    exact ⟨rfl, rfl⟩

/-- Settles O18: a timeout sets the count of step 4 to 0, far from a push; mid-byte nothing is loaded. -/
theorem clkTickTimeoutRestartsTheByte : Obligations.ClkTickTimeoutRestartsTheByte := by
  intro v s hv ht
  refine ⟨_, exec_clk_ticked hv ht, fun hr => ?_, fun hr => ?_⟩
  · have hk : s.tickIndex = 0 := if_pos hr
    rw [ticked_resyncCount, ticked_dataIndex, ticked_rx, ticked_rxLost, ticked_tx, ticked_txShift, ticked_raised,
      State.tickRaised, loadTransmit_of_pos s.params s.slave hr.1, if_pos hr, if_pos hr, saturatingSucc_toNat, hk]
    simp
  · rw [ticked_resyncCount, ticked_raised, State.tickRaised, if_neg hr, if_neg hr]
    refine ⟨rfl, ?_⟩
    split <;> simp

/-- A bit number of a byte (R65). -/
theorem bitnum_lt (order : BitOrder) {p : Nat} (hp : p < 8) : bitnum order p < 8 := by
  cases order <;> simp only [bitnum] <;> omega

theorem tickIndex_lt (s : State) : s.tickIndex < 16 := by
  have := s.slave.dataIndex.isLt
  simp only [State.tickIndex]
  split <;> omega

/-- Settles O19: step 6 on a sample edge, bit by bit. -/
theorem clkTickSamplesOneBit : Obligations.ClkTickSamplesOneBit := by
  intro v s hv ht
  refine ⟨_, exec_clk_ticked hv ht, ?_⟩
  rw [ticked_rxShift]
  refine ⟨fun hsample hdin n _ => ?_, fun h => if_neg ?_⟩
  · have hbit : bitnum s.params.bitOrder (s.tickIndex / 2) < 8 :=
      bitnum_lt _ (by have := tickIndex_lt s; omega)
    rw [if_pos ⟨hsample, hdin⟩, bitAt_assignBit _ hbit]
  · rintro ⟨hsample, hdin⟩
    obtain h | h := h
    · exact h hsample
    · simp [h] at hdin

/-- Settles O20: step 6 on a shift edge. -/
theorem clkTickDrivesTheNextBit : Obligations.ClkTickDrivesTheNextBit := by
  intro v s hv ht
  refine ⟨_, exec_clk_ticked hv ht, ?_⟩
  rw [ticked_doutLevel]
  refine ⟨fun hshift hdout => if_pos ⟨hshift, hdout⟩, fun h => if_neg ?_⟩
  rintro ⟨hshift, hdout⟩
  obtain h | h := h
  · exact hshift h
  · simp [h] at hdout

/-- A tick writes no transmit cell (R87). -/
theorem loadTransmit_mem (p : Params) (sl : Slave) : (loadTransmit p sl).tx.mem = sl.tx.mem := by
  obtain h | h | h := loadTransmit_cases p sl <;> simp [h]

/-- Settles O23: only a tick that completes a byte writes a cell, and that one is `tail`. -/
theorem clkMemoryFrame : Obligations.ClkMemoryFrame := by
  intro v s
  obtain e | e | ⟨hv, ht, e⟩ := exec_clk_cases v s
  · exact ⟨_, e, fun _ => rfl, fun _ _ _ _ => rfl, fun _ _ => rfl⟩
  · exact ⟨_, e, fun _ => rfl, fun _ _ _ _ => rfl, fun _ _ => rfl⟩
  refine ⟨_, e, fun a => congrArg (Memory.read · a) (loadTransmit_mem s.params s.slave), fun a ha b hb => ?_,
    fun h a => ?_⟩
  · rw [ticked_rx]
    split
    · rw [ByteRing.push_mem, ha]
      exact Memory.read_write_other _ _ hb
    · rfl
  · have hlt : s.tickIndex ≠ 15 := by
      obtain h | h | h := h
      · exact absurd h hv
      · exact absurd ht h
      · omega
    rw [ticked_rx, if_neg hlt]

end Sys2Proof.Machine
end

section
/-! The other events of the environment and the session of the slave (spec/40_spi_slave_events.md R81, R83, R93,
spec/41_spi_slave_host_ops.md R100, R101, spec/70_reset_and_hazards.md R160). -/

namespace Sys2Proof.Machine

/-- Settles O12: without an edge, inactive or without data-out the two guards of `SEL` fail. -/
theorem selWithoutHandlerOnlyMovesThePin : Obligations.SelWithoutHandlerOnlyMovesThePin := by
  intro v s h
  by_cases hv : v = s.env.pinSel
  · subst hv
    exact if_pos rfl
  · have hguard : ¬ (s.slave.active && s.params.hasDout) = true := by
      obtain h | h | h := h
      · exact absurd h hv
      · simp [h]
      · simp [h]
    exact (if_neg hv).trans (if_neg hguard)

/-- A select edge handled is the select-edge handler at the new level, inside its step (R81). -/
theorem exec_sel_handled {v : Level} {s : State} (hv : v ≠ s.env.pinSel) (hactive : s.slave.active = true)
    (hdout : s.params.hasDout = true) :
    exec (.sel v) s = ((s.withEnv { s.env with pinSel := v }).withSlave
      (selectEdgeHandler s.params { s.env with pinSel := v } s.slave)).done :=
  (if_neg hv).trans (if_pos (by simp [hactive, hdout]))

/-- Settles O27: the preloaded bit is the peeked byte's, which heads the queue. -/
theorem selToActiveDrivesAndPreloads : Obligations.SelToActiveDrivesAndPreloads := by
  intro v s hv hactive hdout hsel
  rw [exec_sel_handled hv hactive hdout, done_eq, selectEdgeHandler, if_pos hsel]
  have hlen := ByteRing.queue_length s.params.txCap s.slave.tx
  have hpeek := ByteRing.peek_eq s.params.txCap s.slave.tx
  cases hq : s.slave.tx.queue s.params.txCap with
  | nil =>
    rw [hq] at hlen
    simp [← hlen]
  | cons b q =>
    rw [hq] at hlen hpeek
    have hpos : 0 < s.slave.tx.count := by simp [← hlen]
    cases ho : s.params.bitOrder <;> simp [hpos, hpeek, bitnum]

/-- Settles O28: the handler's other branch. -/
theorem selToInactiveReleasesTheLine : Obligations.SelToInactiveReleasesTheLine := by
  intro v s hv hactive hdout hsel
  rw [exec_sel_handled hv hactive hdout, done_eq, selectEdgeHandler, if_neg hsel]
  rfl

/-- Settles O14: the counter is taken modulo 2^32 by its width. -/
theorem timeAdvancesTheCounterModulo : Obligations.TimeAdvancesTheCounterModulo := by
  intro dt s
  exact ⟨BitVec.ofNat 32 (s.env.nowMs.toNat + dt), BitVec.toNat_ofNat _ _, rfl⟩

/-- Settles O9: the decoder and the slave after reset, field by field. -/
theorem resetStimulusInstallsResetValues : Obligations.ResetStimulusInstallsResetValues := by
  intro s
  exact ⟨_, rfl, rfl, rfl, rfl, rfl, rfl, rfl, rfl, rfl, rfl, rfl, rfl, rfl, rfl, rfl, rfl, rfl, rfl, rfl, rfl, rfl, rfl,
    rfl⟩

/-- A slave after reset meets the invariant with any parameters: its rings are empty and it is inactive. -/
theorem inv_of_slave_reset {s : State} (h : s.slave = Slave.reset) : s.Inv := by
  unfold State.Inv
  rw [h]
  exact ⟨ByteRing.empty_inBounds _, ByteRing.empty_inBounds _, by simp [Slave.reset]⟩

/-- Settles O10: the slave of the state after reset is a slave after reset. -/
theorem resetMeetsTheInvariant : Obligations.ResetMeetsTheInvariant := inv_of_slave_reset rfl

/-- The test `begin` makes is the activation contract (R100). -/
theorem activationOk_iff (p : Params) : activationOk p = true ↔ activationContract p := by
  cases hout : p.hasDout <;> simp [activationOk, activationContract, hout]

/-- Releasing the line writes the direction only, and only with a data-out pin (R100, R101). -/
theorem releaseDout_eq (p : Params) (sl : Slave) :
    sl.releaseDout p = { sl with doutDir := if p.hasDout then .input else sl.doutDir } := by
  cases h : p.hasDout <;> simp [Slave.releaseDout, h]

/-- Settles O29: both guards of `begin` pass. -/
theorem beginStartsASession : Obligations.BeginStartsASession := by
  intro s hactive hok
  rw [← activationOk_iff] at hok
  simp only [exec, execBegin, hactive, Bool.false_eq_true, if_false, if_pos hok, done_eq, releaseDout_eq]
  rfl

/-- Settles O30: one of the guards of `begin` fails. -/
theorem beginOtherwiseChangesNothing : Obligations.BeginOtherwiseChangesNothing := by
  intro s h
  rw [← activationOk_iff] at h
  cases hactive : s.slave.active with
  | true => simp [exec, execBegin, hactive, done_eq]
  | false =>
    have hok : ¬ activationOk s.params = true := h.resolve_left (by simp [hactive])
    simp only [exec, execBegin, hactive, Bool.false_eq_true, if_false, if_neg hok]
    rfl

/-- Settles O31: `end` is one update in every state. -/
theorem endDetachesAndReleases : Obligations.EndDetachesAndReleases := by
  intro s
  simp only [exec, execEnd, done_eq, releaseDout_eq]
  rfl

end Sys2Proof.Machine
end

section
/-! The ring operations of the host (spec/41_spi_slave_host_ops.md R103, R106 to R108). -/

namespace Sys2Proof.Machine

/-- Settles O33: free entries and bytes held make the capacity. -/
theorem rxBytesRemainingCountsFreeEntries : Obligations.RxBytesRemainingCountsFreeEntries := by
  intro s hle
  exact ⟨_, rfl, Nat.sub_add_cancel hle⟩

/-- `read` pops the receive ring (R106). -/
theorem exec_read (s : State) : exec .read s = .next { s with
    slave := { s.slave with rx := (s.slave.rx.pop s.params.rxCap).2 }
    io := { s.io with
      result := some (.byte (s.slave.rx.pop s.params.rxCap).1), raised := underflowOf s.slave.rx } } := rfl

/-- Settles O35: the queue split at its head, a pop on each side. -/
theorem readDequeuesTheOldestByte : Obligations.ReadDequeuesTheOldestByte := by
  intro s
  refine ⟨(s.slave.rx.pop s.params.rxCap).2, ?_⟩
  have hlen := ByteRing.queue_length s.params.rxCap s.slave.rx
  have hbyte := ByteRing.pop_fst s.params.rxCap s.slave.rx
  have hrest := ByteRing.queue_pop s.params.rxCap s.slave.rx
  rw [exec_read, underflowOf]
  cases hq : s.slave.rx.queue s.params.rxCap with
  | nil =>
    have hcount : s.slave.rx.count = 0 := by rw [← hlen, hq, List.length_nil]
    have hpop : s.slave.rx.pop s.params.rxCap = (0x00#8, s.slave.rx) := if_pos hcount
    rw [hpop, if_pos hcount]
    exact ⟨rfl, rfl⟩
  | cons b q =>
    rw [hq] at hlen hbyte hrest
    have hcount : s.slave.rx.count ≠ 0 := by simp [← hlen]
    refine ⟨hrest, fun a => by rw [ByteRing.pop_mem], ?_⟩
    rw [hbyte, if_neg hcount]
    rfl

/-- Settles O36: a peek is the head of the queue. -/
theorem peekReturnsTheOldestByte : Obligations.PeekReturnsTheOldestByte := by
  intro s
  rw [← ByteRing.peek_eq]
  rfl

/-- `write` pushes on the transmit ring (R108). -/
theorem exec_write (b : Byte) (s : State) : exec (.write b) s = .next { s with
    slave := { s.slave with tx := s.slave.tx.push s.params.txCap b }
    io := { s.io with result := none, raised := [] } } := rfl

/-- Settles O37: the push, on the queue and on the cells. -/
theorem writeQueuesTheByte : Obligations.WriteQueuesTheByte := by
  intro b s hin
  refine ⟨_, exec_write b s, ByteRing.queue_push hin b, ?_⟩
  obtain ⟨hwf, -⟩ := hin
  rintro a rfl
  rw [ByteRing.push_mem]
  exact ⟨Memory.read_write_same hwf _ b, fun c hc => Memory.read_write_other _ b hc⟩

end Sys2Proof.Machine
end

section
/-! The packet decoder: the indexed writer, `refresh` and the readers (spec/42_packet_decoder.md R123, R125 to R131). -/

namespace Sys2Proof.Machine

/-- A byte of a slot after one of its bytes is written; indexes from 3 on select nothing (R67, R123). -/
theorem byteAt_setByte (sl : Slot) (i : Nat) (b : Byte) (j : Nat) :
    (sl.setByte i b).byteAt j = if j = i ∧ i ≤ 2 then some b else sl.byteAt j := by
  match i with
  | 0 | 1 | 2 => match j with
    | 0 | 1 | 2 | _ + 3 => rfl
  | _ + 3 => simp [Slot.setByte]

/-- A slot after a byte write: the write-target's byte, the other slot as before (R120 to R123). -/
theorem writeByte_slot (d : Decoder) (i : Nat) (b : Byte) (n : SlotName) :
    (d.writeByte i b).slot n = if n = d.wsel then (d.slot n).setByte i b else d.slot n := by
  unfold Decoder.writeByte Decoder.writeTarget
  cases n <;> cases hw : d.wsel <;> simp [Decoder.setSlot, Decoder.slot]

/-- Settles O40: the slot of the write-target, and in it the byte of the index. -/
theorem updateByteWritesTheIndexedByte : Obligations.UpdateByteWritesTheIndexedByte := by
  intro b index s
  refine ⟨_, rfl, fun n j => ?_, writeByte_wsel _ _ _, writeByte_newData _ _ _, rfl, rfl, rfl, rfl⟩
  show ((s.decoder.writeByte index b).slot n).byteAt j = _
  by_cases hn : n = s.decoder.wsel <;> simp [writeByte_slot, byteAt_setByte, hn]

/-- Settles O42: the other slot's other is the slot itself. -/
theorem refreshSwapsTheSlots : Obligations.RefreshSwapsTheSlots := by
  intro s
  refine ⟨_, rfl, ?_, rfl, rfl, rfl, rfl, rfl, rfl, rfl, rfl⟩
  show s.decoder.slot s.decoder.wsel.other.other = s.decoder.slot s.decoder.wsel
  rw [other_other]

section Packet
variable (sl : Slot)

/-- The packet as a number (R61). -/
theorem packet_toNat : sl.packet.toNat = sl.lsb.toNat + 256 * sl.mb.toNat + 65536 * sl.msb.toNat := by
  have hlsb := sl.lsb.isLt
  have hmb := sl.mb.isLt
  rw [Slot.packet, BitVec.toNat_append, BitVec.toNat_append, ← Nat.shiftLeft_add_eq_or_of_lt hmb,
    ← Nat.shiftLeft_add_eq_or_of_lt hlsb]
  simp only [Nat.shiftLeft_eq]
  omega

/-- The measurement is the low 20 bits of the packet (R62). -/
theorem packetMeasurement_toNat : (packetMeasurement sl.packet).toNat
    = (sl.lsb.toNat + 256 * sl.mb.toNat + 65536 * sl.msb.toNat) % 2 ^ 20 := by
  rw [packetMeasurement, BitVec.extractLsb'_toNat, packet_toNat, Nat.shiftRight_zero]

/-- The bits above the lower two bytes are the top byte's. -/
theorem packet_getLsbD_msb {n : Nat} (h : 16 ≤ n) : sl.packet.getLsbD n = sl.msb.getLsbD (n - 16) := by
  rw [Slot.packet, BitVec.getLsbD_append, if_neg (by omega), BitVec.getLsbD_append, if_neg (by omega), Nat.sub_sub]

theorem packetSign_eq : packetSign sl.packet = if sl.msb.getLsbD 4 then .negative else .positive := by
  rw [packetSign, packet_getLsbD_msb sl (by decide)]

theorem packetUnit_eq : packetUnit sl.packet = if sl.msb.getLsbD 7 then .inches else .millimetres := by
  rw [packetUnit, packet_getLsbD_msb sl (by decide)]

/-- The value of a packet is its signed measurement over the divisor of its unit (R127). -/
theorem packetValue_eq : packetValue sl.packet = (if sl.msb.getLsbD 4 then -1 else 1)
    * (((packetMeasurement sl.packet).toNat : Rat) / (if sl.msb.getLsbD 7 then 2000 else 100)) := by
  rw [packetValue, packetSign_eq, packetUnit_eq]
  cases sl.msb.getLsbD 4 <;> cases sl.msb.getLsbD 7 <;> simp [Rat.mkRat_eq_div, neg_div]

end Packet

/-- Settles O43: the measurement as a number. -/
theorem rawMeasurementIsTheLowTwentyBits : Obligations.RawMeasurementIsTheLowTwentyBits := by
  intro s
  rw [← packetMeasurement_toNat]
  rfl

/-- Settles O44: the value of the published packet; the upper bits of the top byte do not count. -/
theorem measurementIsTheExactRational : Obligations.MeasurementIsTheExactRational := by
  intro s
  refine ⟨_, rfl, ?_⟩
  have hnumber : (packetMeasurement s.decoder.readTarget.packet).toNat
      = s.decoder.readTarget.lsb.toNat + 256 * s.decoder.readTarget.mb.toNat
        + 65536 * (s.decoder.readTarget.msb.toNat % 16) := by
    have hlsb := s.decoder.readTarget.lsb.isLt
    have hmb := s.decoder.readTarget.mb.isLt
    rw [packetMeasurement_toNat]
    omega
  rw [← hnumber]
  exact packetValue_eq s.decoder.readTarget

/-- Settles O45: the unit and the sign of the published packet, bit by bit. -/
theorem unitAndSignReaders : Obligations.UnitAndSignReaders := by
  intro s
  refine ⟨packetUnit s.decoder.published, packetSign s.decoder.published, ?_, ?_, rfl, rfl, ?_, ?_⟩
  · rw [Decoder.published, packetUnit_eq]
    split <;> rfl
  · rw [Decoder.published, packetSign_eq]
    split <;> rfl
  · rw [exec, execGetUnitString, Decoder.published, packetUnit_eq]
    split <;> rfl
  · rw [exec, execGetSignString, Decoder.published, packetSign_eq]
    split <;> rfl

end Sys2Proof.Machine
end

section
/-! What a stimulus can do, said once: the frame every stimulus keeps and what becomes of the slave (spec/20_memory.md
R57). The rules of the whole machine are read off it. -/

namespace Sys2Proof.Machine

/-- What a stimulus makes of the slave. -/
inductive SlaveEffect (s t : State) : Instr → Prop
  /-- Nothing. -/
  | kept {i : Instr} (slave : t.slave = s.slave) : SlaveEffect s t i
  /-- A clock edge while deselected (R85). -/
  | abandoned {v : Level} (slave : t.slave = { s.slave with dataIndex := 0, lastEdgeMs := s.env.nowMs }) :
      SlaveEffect s t (.clk v)
  /-- A tick (R84). -/
  | ticked {v : Level} (state : t = s.ticked v) : SlaveEffect s t (.clk v)
  /-- A select edge, handled only while active and with a data-out pin (R81, R93). -/
  | selected {v : Level} {d : Dir} {l : Level} (active : s.slave.active = true) (hasDout : s.params.hasDout = true)
      (slave : t.slave = { s.slave with doutDir := d, doutLevel := l }) : SlaveEffect s t (.sel v)
  /-- `RESET` (R160). -/
  | reset (slave : t.slave = Slave.reset) : SlaveEffect s t .reset
  /-- A session begins, under the activation contract (R100). -/
  | begun (inactive : s.slave.active = false) (contract : activationOk s.params = true)
      (slave : t.slave = { s.slave with
        active := true, dataIndex := 0, rxShift := 0x00#8, txShift := 0x00#8, lastEdgeMs := s.env.nowMs
        doutDir := if s.params.hasDout then .input else s.slave.doutDir }) : SlaveEffect s t .beginSession
  /-- `end` (R101). -/
  | ended (slave : t.slave = { s.slave with
      active := false, doutDir := if s.params.hasDout then .input else s.slave.doutDir }) :
      SlaveEffect s t .endSession
  /-- `rxHasLostData` (R105). -/
  | lostRead (slave : t.slave = { s.slave with rxLost := false }) : SlaveEffect s t .rxHasLostData
  /-- `read` (R106). -/
  | popped (slave : t.slave = { s.slave with rx := (s.slave.rx.pop s.params.rxCap).2 }) : SlaveEffect s t .read
  /-- `write` (R108). -/
  | pushed {b : Byte} (slave : t.slave = { s.slave with tx := s.slave.tx.push s.params.txCap b }) :
      SlaveEffect s t (.write b)

/-- What a stimulus does: it keeps the parameters, and the environment if it is no wire event; it raises one condition at
most; and its effect on the slave. -/
structure StimulusEffect (i : Instr) (s t : State) : Prop where
  params : t.params = s.params
  env : i.agent ≠ .wire → t.env = s.env
  raised : t.io.raised.length ≤ 1
  slave : SlaveEffect s t i

/-- A timeout and an overflow never meet on one edge (R148). -/
theorem tickRaised_length (s : State) : s.tickRaised.length ≤ 1 := by
  rw [State.tickRaised]
  split
  · exact le_rfl
  · split <;> simp

theorem underflowOf_length (r : ByteRing) : (underflowOf r).length ≤ 1 := by
  rw [underflowOf]
  split <;> simp

/-- `CLK` has an effect of the list: none, an abandoned byte or a tick. -/
theorem exec_clk_effect (v : Level) (s : State) : ∃ t, exec (.clk v) s = .next t ∧ StimulusEffect (.clk v) s t := by
  obtain e | e | ⟨-, -, e⟩ := exec_clk_cases v s
  · exact ⟨_, e, rfl, fun h => absurd rfl h, Nat.zero_le _, .kept rfl⟩
  · exact ⟨_, e, rfl, fun h => absurd rfl h, Nat.zero_le _, .abandoned rfl⟩
  · exact ⟨_, e, rfl, fun h => absurd rfl h, tickRaised_length s, .ticked rfl⟩

/-- `SEL` has an effect of the list: none, or the data-out registers written. -/
theorem exec_sel_effect (v : Level) (s : State) : ∃ t, exec (.sel v) s = .next t ∧ StimulusEffect (.sel v) s t := by
  by_cases hidle : v = s.env.pinSel ∨ s.slave.active = false ∨ s.params.hasDout = false
  · exact ⟨_, selWithoutHandlerOnlyMovesThePin v s hidle, rfl, fun h => absurd rfl h, Nat.zero_le _, .kept rfl⟩
  simp only [not_or, Bool.not_eq_false] at hidle
  obtain ⟨hv, hactive, hdout⟩ := hidle
  by_cases hsel : v = s.params.selActive
  · exact ⟨_, selToActiveDrivesAndPreloads v s hv hactive hdout hsel, rfl, fun h => absurd rfl h, Nat.zero_le _,
      .selected hactive hdout rfl⟩
  · exact ⟨_, selToInactiveReleasesTheLine v s hv hactive hdout hsel, rfl, fun h => absurd rfl h, Nat.zero_le _,
      .selected hactive hdout rfl⟩

/-- `begin` has an effect of the list: none, or a session begun. -/
theorem exec_begin_effect (s : State) : ∃ t, exec .beginSession s = .next t ∧ StimulusEffect .beginSession s t := by
  by_cases hidle : s.slave.active = true ∨ ¬ activationContract s.params
  · refine ⟨_, beginOtherwiseChangesNothing s hidle, rfl, fun _ => rfl, ?_, .kept rfl⟩
    dsimp only
    split <;> simp
  · simp only [not_or, Bool.not_eq_true, not_not] at hidle
    obtain ⟨hactive, hok⟩ := hidle
    exact ⟨_, beginStartsASession s hactive hok, rfl, fun _ => rfl, Nat.zero_le _,
      .begun hactive ((activationOk_iff _).2 hok) rfl⟩

/-- Every stimulus answers a next state, with an effect of the list. -/
theorem exec_effect (i : Instr) (s : State) : ∃ t, exec i s = .next t ∧ StimulusEffect i s t := by
  cases i with
  | clk v => exact exec_clk_effect v s
  | sel v => exact exec_sel_effect v s
  | beginSession => exact exec_begin_effect s
  | din _ | time _ => exact ⟨_, rfl, rfl, fun h => absurd rfl h, Nat.zero_le _, .kept rfl⟩
  | reset => exact ⟨_, rfl, rfl, fun _ => rfl, Nat.zero_le _, .reset rfl⟩
  | endSession => exact ⟨_, endDetachesAndReleases s, rfl, fun _ => rfl, Nat.zero_le _, .ended rfl⟩
  | rxHasLostData => exact ⟨_, rfl, rfl, fun _ => rfl, Nat.zero_le _, .lostRead rfl⟩
  | read => exact ⟨_, exec_read s, rfl, fun _ => rfl, underflowOf_length _, .popped rfl⟩
  | peek => exact ⟨_, rfl, rfl, fun _ => rfl, underflowOf_length _, .kept rfl⟩
  | write b => exact ⟨_, exec_write b s, rfl, fun _ => rfl, Nat.zero_le _, .pushed rfl⟩
  | _ => exact ⟨_, rfl, rfl, fun _ => rfl, Nat.zero_le _, .kept rfl⟩

/-- The effect of a stimulus that answered `t`. -/
theorem effect_of_exec {i : Instr} {s t : State} (h : exec i s = .next t) : StimulusEffect i s t := by
  obtain ⟨t', e, heff⟩ := exec_effect i s
  cases h.symm.trans e
  exact heff

/-- Settles O8: every effect comes with its answer. -/
theorem everyStimulusCompletes : Obligations.EveryStimulusCompletes := by
  intro i s
  obtain ⟨t, e, -⟩ := exec_effect i s
  exact ⟨t, e⟩

/-- Settles O52: the frame's parameters. -/
theorem noStimulusChangesTheParameters : Obligations.NoStimulusChangesTheParameters :=
  fun _ _ _ h => (effect_of_exec h).params

/-- Settles O53: the frame's environment. -/
theorem onlyTheWireMovesTheEnvironment : Obligations.OnlyTheWireMovesTheEnvironment :=
  fun _ _ _ h => (effect_of_exec h).env

/-- Settles O57: the conditions of each effect, counted. -/
theorem atMostOneConditionAStimulus : Obligations.AtMostOneConditionAStimulus :=
  fun _ _ _ h => (effect_of_exec h).raised

/-- Settles O54: of all effects, only three write `active`. -/
theorem onlySessionOperationsChangeActive : Obligations.OnlySessionOperationsChangeActive := by
  intro i s t h hne
  cases (effect_of_exec h).slave with
  | begun _ _ slave => exact .inl ⟨rfl, by rw [slave]⟩
  | ended slave => exact .inr ⟨.inl rfl, by rw [slave]⟩
  | reset slave => exact .inr ⟨.inr rfl, by rw [slave]; rfl⟩
  | ticked state => exact absurd (by rw [state]; rfl) hne
  | kept slave | abandoned slave | selected _ _ slave | lostRead slave | popped slave | pushed slave =>
    exact absurd (by rw [slave]) hne

/-- Settles O55: `rxHasLostData` and `RESET` clear the flag, a tick's overflow sets it, and no other effect writes it. -/
theorem lostFlagIsSticky : Obligations.LostFlagIsSticky := by
  intro i s t h
  cases (effect_of_exec h).slave with
  | reset slave => exact ⟨fun _ _ => .inr rfl, fun _ h => by simp [slave, Slave.reset] at h⟩
  | lostRead slave => exact ⟨fun _ _ => .inl rfl, fun _ h => by simp [slave] at h⟩
  | @ticked v state =>
    subst state
    rw [ticked_rxLost, ticked_raised]
    refine ⟨fun hs ht => by simp [hs] at ht, fun hs ht => ?_⟩
    simp only [hs, Bool.false_or, Bool.and_eq_true, decide_eq_true_eq] at ht
    obtain ⟨h15, hfull⟩ := ht
    refine ⟨⟨v, rfl⟩, by simpa [ByteRing.isFull] using hfull, ?_⟩
    rw [State.tickRaised, if_neg (State.not_restarts_of_tickIndex h15), if_pos ⟨h15, hfull⟩]
  | kept slave | abandoned slave | selected _ _ slave | begun _ _ slave | ended slave | popped slave | pushed slave =>
    exact ⟨fun hs ht => by simp [slave, hs] at ht, fun hs ht => by simp [slave, hs] at ht⟩

/-- Settles O56: a tick counts a timeout unless the counter stands at 255, and no other effect but `RESET` writes the
counter. -/
theorem resyncCountOnlyCountsTimeouts : Obligations.ResyncCountOnlyCountsTimeouts := by
  intro i s t h hne
  cases (effect_of_exec h).slave with
  | reset => exact absurd rfl hne
  | @ticked v state =>
    subst state
    rw [ticked_resyncCount, ticked_raised, State.tickRaised]
    by_cases hr : s.restarts
    · rw [if_pos hr, if_pos hr]
      have hsucc := saturatingSucc_toNat s.slave.resyncCount
      by_cases hmax : s.slave.resyncCount.toNat = 255
      · exact .inl (BitVec.eq_of_toNat_eq (by omega))
      · exact .inr ⟨by have := s.slave.resyncCount.isLt; omega, ⟨v, rfl⟩, rfl⟩
    · exact .inl (if_neg hr)
  | kept slave | abandoned slave | selected _ _ slave | begun _ _ slave | ended slave | lostRead slave | popped slave
  | pushed slave => exact .inl (by rw [slave])

/-- Settles O58: of all effects, only a tick and `write` write a cell, each of its own ring. -/
theorem onlyProducersStoreToTheRings : Obligations.OnlyProducersStoreToTheRings := by
  intro i s t h hne
  cases (effect_of_exec h).slave with
  | reset => exact absurd rfl hne
  | @ticked v state =>
    subst state
    exact ⟨fun hclk => absurd rfl (hclk v), fun _ a => by rw [ticked_tx, loadTransmit_mem]⟩
  | @pushed b slave => exact ⟨fun _ a => by rw [slave], fun hwrite => absurd rfl (hwrite b)⟩
  | popped slave => exact ⟨fun _ a => by rw [slave, ByteRing.pop_mem], fun _ a => by rw [slave]⟩
  | kept slave | abandoned slave | selected _ _ slave | begun _ _ slave | ended slave | lostRead slave =>
    exact ⟨fun _ a => by rw [slave], fun _ a => by rw [slave]⟩

/-- Step 3 keeps the transmit ring within its bounds (R87). -/
theorem loadTransmit_inBounds {p : Params} {sl : Slave} (h : sl.tx.inBounds p.txCap) :
    (loadTransmit p sl).tx.inBounds p.txCap := by
  obtain e | e | e := loadTransmit_cases p sl <;> rw [e]
  · exact h
  · exact h
  · exact ByteRing.pop_inBounds h

/-- Releasing a line that is driven only with a data-out pin leaves it an input (R100, R101). -/
theorem released_isInput {hasDout : Bool} {d : Dir} (h : d = .output → hasDout = true) :
    (if hasDout then .input else d) = Dir.input := by
  cases hasDout <;> cases d <;> simp at h ⊢

/-- Every stimulus keeps the invariant (R29). -/
theorem exec_inv {i : Instr} {s t : State} (hinv : s.Inv) (h : exec i s = .next t) : t.Inv := by
  obtain ⟨hparams, -, -, heff⟩ := effect_of_exec h
  obtain ⟨hrx, htx, hdout, hinput, hcontract⟩ := hinv
  unfold State.Inv
  rw [hparams]
  cases heff with
  | kept slave | abandoned slave | lostRead slave => rw [slave]; exact ⟨hrx, htx, hdout, hinput, hcontract⟩
  | @ticked v state =>
    subst state
    refine ⟨?_, loadTransmit_inBounds htx, hdout, hinput, hcontract⟩
    rw [ticked_rx]
    split
    · exact ByteRing.push_inBounds hrx _
    · exact hrx
  | selected active hasDout slave =>
    rw [slave]
    exact ⟨hrx, htx, fun _ => hasDout, fun h => by simp [active] at h, hcontract⟩
  | reset slave => rw [← hparams]; exact inv_of_slave_reset slave
  | begun _ contract slave =>
    rw [slave, released_isInput hdout]
    exact ⟨hrx, htx, by simp, fun _ => rfl, fun _ => contract⟩
  | ended slave =>
    rw [slave, released_isInput hdout]
    exact ⟨hrx, htx, by simp, fun _ => rfl, by simp⟩
  | popped slave => rw [slave]; exact ⟨ByteRing.pop_inBounds hrx, htx, hdout, hinput, hcontract⟩
  | pushed slave => rw [slave]; exact ⟨hrx, ByteRing.push_inBounds htx _, hdout, hinput, hcontract⟩

/-- What a step does: nothing, or the stimulus of the next word, which it consumes (R7). -/
theorem step_next_cases {s t : State} (h : step s = .next t) :
    t = s ∨ ∃ w rest i, s.io.trace = w :: rest ∧ decode w = .ok i ∧ exec i (s.withTrace rest) = .next t := by
  unfold step State.nextStimulus at h
  cases htrace : s.io.trace with
  | nil =>
    rw [htrace] at h
    cases h
    exact .inl rfl
  | cons w rest =>
    rw [htrace] at h
    dsimp only at h
    split at h
    case h_1 i hi => exact .inr ⟨w, rest, i, rfl, hi, h⟩
    case h_2 => cases h

/-- Settles O49: a step runs a stimulus or nothing, and consuming a word touches no part of the invariant. -/
theorem stepKeepsTheInvariant : Obligations.StepKeepsTheInvariant := by
  intro s t hinv h
  obtain rfl | ⟨w, rest, i, -, -, hexec⟩ := step_next_cases h
  · exact hinv
  · have hinv' : (s.withTrace rest).Inv := hinv
    exact exec_inv hinv' hexec

end Sys2Proof.Machine
end

section
/-! Steps and their refusals (spec/00_scope.md R7, spec/30_encoding.md R69, spec/70_reset_and_hazards.md R161). -/

namespace Sys2Proof.Machine

/-- Settles O5: a word is pending and the decoder accepts it. -/
theorem stepRunsTheDecodedStimulus : Obligations.StepRunsTheDecodedStimulus := by
  intro s w rest i htrace hdecode
  simp only [step, State.nextStimulus, htrace, hdecode]
  rfl

/-- A pending word the decoder refuses is refused for the decoder's reason (R69). -/
theorem step_of_decode_error {s : State} {w : StimWord} {rest : List StimWord} {why : Reject}
    (htrace : s.io.trace = w :: rest) (hdecode : decode w = .error why) :
    step s = .refused (.illegalStimulus why) := by
  simp only [step, State.nextStimulus, htrace, hdecode]

/-- Settles O6: a word the decoder accepts selects a row, so the decoder refuses this one. -/
theorem stepRefusesIllegalWords : Obligations.StepRefusesIllegalWords := by
  intro s w rest htrace hrows
  cases hdecode : decode w with
  | ok i =>
    obtain ⟨r, hr, hselected, -⟩ := (decoderFollowsTheOpcodeTable w).1 i hdecode
    rw [hrows r hr] at hselected
    cases hselected
  | error why => exact ⟨why, step_of_decode_error htrace hdecode⟩

/-- Settles O7: there is no next stimulus. -/
theorem stepWithoutStimulusIsIdle : Obligations.StepWithoutStimulusIsIdle := by
  intro s htrace
  simp only [step, State.nextStimulus, htrace]

end Sys2Proof.Machine
end

section
/-! Rules that hold along every list of stimuli of a kind (spec/42_packet_decoder.md R136, spec/40_spi_slave_events.md
R95), the host that checks before it acts (spec/70_reset_and_hazards.md R164 to R167), and the transmit queue filled by
writes (spec/20_memory.md R44). -/

namespace Sys2Proof.Machine

/-- What each stimulus of a list keeps, the whole list keeps. -/
theorem execAll_keeps {P : State → Prop} {is : List Instr}
    (hstep : ∀ i ∈ is, ∀ s, P s → ∃ t, exec i s = .next t ∧ P t) {s : State} (hs : P s) :
    ∃ t, execAll is s = .next t ∧ P t := by
  induction is generalizing s with
  | nil => exact ⟨s, rfl, hs⟩
  | cons i is ih =>
    obtain ⟨u, hu, hPu⟩ := hstep i List.mem_cons_self s hs
    obtain ⟨t, ht, hPt⟩ := ih (fun j hj => hstep j (List.mem_cons_of_mem i hj)) hPu
    exact ⟨t, by rw [execAll, hu]; exact ht, hPt⟩

/-- Only `refresh` and `RESET` touch the read-target slot: the writers write the other one (R120, R136). -/
theorem exec_keeps_readTarget {i : Instr} (hrefresh : i ≠ .refresh) (hreset : i ≠ .reset) (s : State) :
    ∃ t, exec i s = .next t ∧ t.decoder.readTarget = s.decoder.readTarget := by
  by_cases hop : i.op.toNat < 0x20
  · obtain ⟨t, e, hd, -⟩ := exec_besideDecoder hop hreset s
    exact ⟨t, e, by rw [hd]⟩
  cases i with
  | updateLsb b | updateMb b | updateMsb b | updateByte b _ => exact ⟨_, rfl, writeByte_readTarget _ _ _⟩
  | updateDataBytes msb mb lsb => exact ⟨_, rfl, by simp⟩
  | refresh => exact absurd rfl hrefresh
  | getRawMeasurement | getMeasurement | getUnit | getSign | getUnitString | getSignString | setNewData | clearNewData
  | isNewData | getPacketLength => exact ⟨_, rfl, rfl⟩
  | _ => simp [Instr.op] at hop

/-- Settles O47: the read-target slot along the list. -/
theorem readersAreStableBetweenRefreshes : Obligations.ReadersAreStableBetweenRefreshes := by
  intro is s his
  refine execAll_keeps (P := fun t => t.decoder.readTarget = s.decoder.readTarget) (fun i hi u hu => ?_) rfl
  obtain ⟨hrefresh, hreset⟩ := his i hi
  obtain ⟨t, e, ht⟩ := exec_keeps_readTarget hrefresh hreset u
  exact ⟨t, e, ht.trans hu⟩

/-- A wire event on an inactive slave runs no handler (R80, R81). -/
theorem exec_wire_of_inactive {i : Instr} (hwire : i.agent = .wire) {s : State} (hs : s.slave.active = false) :
    ∃ t, exec i s = .next t ∧ t.slave = s.slave ∧ t.decoder = s.decoder := by
  cases i with
  | clk v => exact ⟨_, clkWithoutHandlerOnlyMovesThePin v s (.inr hs), rfl, rfl⟩
  | sel v => exact ⟨_, selWithoutHandlerOnlyMovesThePin v s (.inr (.inl hs)), rfl, rfl⟩
  | din _ | time _ => exact ⟨_, rfl, rfl, rfl⟩
  | _ => cases hwire

/-- Settles O51: the slave stays as it is, so it stays inactive. -/
theorem inactiveSlaveIsInert : Obligations.InactiveSlaveIsInert := by
  intro is s hs his
  refine execAll_keeps (P := fun t => t.slave = s.slave ∧ t.decoder = s.decoder) (fun i hi u hu => ?_) ⟨rfl, rfl⟩
  obtain ⟨hslave, hdecoder⟩ := hu
  obtain ⟨t, e, hts, htd⟩ := exec_wire_of_inactive (his i hi) (s := u) (by rw [hslave, hs])
  exact ⟨t, e, hts.trans hslave, htd.trans hdecoder⟩

/-- A ring that holds a byte has an oldest byte (R42). -/
theorem ByteRing.exists_queue_eq_cons (cap : Capacity) {r : ByteRing} (h : 0 < r.count) :
    ∃ b q, r.queue cap = b :: q :=
  ⟨_, _, ByteRing.queue_eq_pop cap h.ne'⟩

/-- Settles O59: `write` below capacity appends, `read` and `peek` see the head of a queue that has one, and `refresh`
publishes the write-target slot. -/
theorem heedfulHostLosesNothing : Obligations.HeedfulHostLosesNothing := by
  rintro i s t ⟨hwf, -, -, hle⟩ hheed h
  refine ⟨?_, ?_, ?_⟩
  · rintro b rfl
    cases h
    have hfree : s.slave.tx.count ≠ s.params.txCap.entries := by simpa [heedsAdvice, ByteRing.isFull] using hheed
    exact ByteRing.queue_push_of_lt hwf (lt_of_le_of_ne hle hfree) b
  · rintro (rfl | rfl)
    · cases h
      have hpos : 0 < s.slave.rx.count := of_decide_eq_true hheed
      exact ⟨if_neg hpos.ne', _, _, ByteRing.queue_eq_pop _ hpos.ne', rfl⟩
    · cases h
      have hpos : 0 < s.slave.rx.count := of_decide_eq_true hheed
      obtain ⟨b, q, hq⟩ := ByteRing.exists_queue_eq_cons s.params.rxCap hpos
      refine ⟨if_neg hpos.ne', b, q, hq, ?_⟩
      rw [emit_result, ByteRing.peek_eq, hq]
      rfl
  · rintro rfl
    obtain ⟨t', e, hread, -⟩ := refreshSwapsTheSlots s
    cases h.symm.trans e
    exact ⟨hheed, hread⟩

/-- A push on a queue keeps the last `CAP` bytes of the queue with the byte appended (R44). -/
theorem queuePush_eq_drop (cap : Capacity) {q : List Byte} (hq : q.length ≤ cap.entries) (v : Byte) :
    queuePush cap q v = (q ++ [v]).drop (q.length + 1 - cap.entries) := by
  rw [queuePush]
  split
  case isTrue hlt => rw [Nat.sub_eq_zero_of_le hlt, List.drop_zero]
  case isFalse hge =>
    have hfull : q.length = cap.entries := by omega
    cases q with
    | nil => exact absurd hfull.symm cap.isPos.ne'
    | cons b q => rw [hfull, Nat.add_sub_cancel_left]; rfl

/-- Pushes one after another keep the last `CAP` bytes (R44). -/
theorem foldl_queuePush (cap : Capacity) (bs : List Byte) {q : List Byte} (hq : q.length ≤ cap.entries) :
    bs.foldl (queuePush cap) q = (q ++ bs).drop ((q ++ bs).length - cap.entries) := by
  induction bs generalizing q with
  | nil => rw [List.append_nil, Nat.sub_eq_zero_of_le hq]; rfl
  | cons b bs ih =>
    have hpush := queuePush_eq_drop cap hq b
    have hlen : (queuePush cap q b).length ≤ cap.entries := by
      rw [hpush, List.length_drop, List.length_append, List.length_singleton]
      omega
    have hsplit : queuePush cap q b ++ bs = (q ++ b :: bs).drop (q.length + 1 - cap.entries) := by
      have hk : q.length + 1 - cap.entries ≤ (q ++ [b]).length := by simp
      rw [hpush, List.append_cons q b bs, List.drop_append_of_le_length hk]
    rw [List.foldl_cons, ih hlen, hsplit, List.drop_drop]
    congr 1
    simp only [List.length_drop, List.length_append, List.length_cons]
    omega

/-- Writes one after another push their bytes one after another (R108). -/
theorem execAll_writes (bs : List Byte) {s : State} (hin : s.slave.tx.inBounds s.params.txCap) :
    ∃ t, execAll (bs.map .write) s = .next t
      ∧ t.slave.tx.queue s.params.txCap = bs.foldl (queuePush s.params.txCap) (s.slave.tx.queue s.params.txCap) := by
  induction bs generalizing s with
  | nil => exact ⟨s, rfl, rfl⟩
  | cons b bs ih =>
    obtain ⟨t, e, ht⟩ := ih (s := { s with
      slave := { s.slave with tx := s.slave.tx.push s.params.txCap b }
      io := { s.io with result := none, raised := [] } }) (ByteRing.push_inBounds hin b)
    refine ⟨t, e, ht.trans ?_⟩
    rw [ByteRing.queue_push hin]
    rfl

/-- Settles O38: pushes from the empty queue, with nothing dropped or the first byte only. -/
theorem writesQueueInFifoOrder : Obligations.WritesQueueInFifoOrder := by
  intro bs s hin h0
  obtain ⟨t, e, ht⟩ := execAll_writes bs hin
  rw [ByteRing.queue_of_empty _ h0, foldl_queuePush _ _ (Nat.zero_le _), List.nil_append] at ht
  refine ⟨t, e, fun hle => ?_, fun hlen => ?_⟩
  · rw [ht, Nat.sub_eq_zero_of_le hle, List.drop_zero]
  · rw [ht, hlen, Nat.add_sub_cancel_left, List.drop_one]

end Sys2Proof.Machine
end

section
/-! Only the queues of the rings are observable (spec/10_state.md R21, spec/20_memory.md R42): two states whose rings hold
the same queues run alike. -/

namespace Sys2Proof.Machine

/-- Two rings within bounds that hold the same queue. -/
structure ByteRing.Alike (cap : Capacity) (r r' : ByteRing) : Prop where
  left : r.inBounds cap
  right : r'.inBounds cap
  queue : r.sameQueue cap r'

/-! What the ring operations see of a ring is the same on two such rings. -/

section Alike
variable {cap : Capacity} {r r' : ByteRing} (h : r.Alike cap r')
include h

theorem ByteRing.Alike.count_eq : r'.count = r.count := by
  rw [← ByteRing.queue_length cap r', ← h.queue, ByteRing.queue_length]

theorem ByteRing.Alike.isFull_eq : r'.isFull cap = r.isFull cap := by
  rw [ByteRing.isFull, h.count_eq, ByteRing.isFull]

theorem ByteRing.Alike.underflowOf_eq : underflowOf r' = underflowOf r := by
  rw [underflowOf, h.count_eq, underflowOf]

theorem ByteRing.Alike.peek_eq : r'.peek cap = r.peek cap := by
  rw [ByteRing.peek_eq, ← h.queue, ByteRing.peek_eq]

theorem ByteRing.Alike.pop_fst : (r'.pop cap).1 = (r.pop cap).1 := by
  rw [ByteRing.pop_fst, ← h.queue, ByteRing.pop_fst]

theorem ByteRing.Alike.pop : (r.pop cap).2.sameQueue cap (r'.pop cap).2 := by
  rw [ByteRing.sameQueue, ByteRing.queue_pop, ByteRing.queue_pop, h.queue]

theorem ByteRing.Alike.push (v : Byte) : (r.push cap v).sameQueue cap (r'.push cap v) := by
  rw [ByteRing.sameQueue, ByteRing.queue_push h.left, ByteRing.queue_push h.right, h.queue]

end Alike

/-- The state with other rings. -/
def State.withRings (s : State) (r x : ByteRing) : State := { s with slave := { s.slave with rx := r, tx := x } }

/-- Two states that differ only in how the rings hold their queues are one state with two pairs of rings. -/
theorem eq_withRings_of_sameButCells {s t : State} (h : s.sameButCells t) :
    t = s.withRings t.slave.rx t.slave.tx := by
  obtain ⟨hp, hd, he, hio, hslave, -, -⟩ := h
  have hslave' : { s.slave with rx := t.slave.rx, tx := t.slave.tx } = t.slave :=
    congrArg (fun sl : Slave => { sl with rx := t.slave.rx, tx := t.slave.tx }) hslave
  rw [State.withRings, hslave', hp, hd, he, hio]

/-- `f` answers, and the same but for the rings when the rings are replaced by others that hold the same queues. -/
def SeesQueuesOnly (f : State → Answer) : Prop :=
  ∀ s r x, s.slave.rx.Alike s.params.rxCap r → s.slave.tx.Alike s.params.txCap x →
    ∃ s' r' x', f s = .next s' ∧ f (s.withRings r x) = .next (s'.withRings r' x')
      ∧ s'.slave.rx.sameQueue s'.params.rxCap r' ∧ s'.slave.tx.sameQueue s'.params.txCap x'

/-- Step 3 loads the same byte and leaves the same queue (R87). -/
theorem loadTransmit_alike (p : Params) {sl : Slave} (r : ByteRing) {x : ByteRing} (h : sl.tx.Alike p.txCap x) :
    (loadTransmit p { sl with rx := r, tx := x }).txShift = (loadTransmit p sl).txShift
      ∧ (loadTransmit p sl).tx.sameQueue p.txCap (loadTransmit p { sl with rx := r, tx := x }).tx := by
  by_cases h0 : sl.dataIndex.val = 0
  · obtain ⟨hshift, htx⟩ := loadTransmit_of_start p h0
    obtain ⟨hshift', htx'⟩ := loadTransmit_of_start p (sl := { sl with rx := r, tx := x }) h0
    rw [hshift, htx, hshift', htx']
    exact ⟨by rw [h.queue], h.pop⟩
  · have hpos := Nat.pos_of_ne_zero h0
    rw [loadTransmit_of_pos p sl hpos, loadTransmit_of_pos p { sl with rx := r, tx := x } hpos]
    exact ⟨rfl, h.queue⟩

/-- A tick sees the queues only: the rings enter it by the byte loaded and by the test for a full ring (R87, R92). -/
theorem ticked_withRings (v : Level) {s : State} {r x : ByteRing} (hr : s.slave.rx.Alike s.params.rxCap r)
    (hx : s.slave.tx.Alike s.params.txCap x) :
    ∃ r' x', (s.withRings r x).ticked v = (s.ticked v).withRings r' x'
      ∧ (s.ticked v).slave.rx.sameQueue s.params.rxCap r' ∧ (s.ticked v).slave.tx.sameQueue s.params.txCap x' := by
  obtain ⟨hshift, htx⟩ := loadTransmit_alike s.params r hx
  refine ⟨((s.withRings r x).ticked v).slave.rx, ((s.withRings r x).ticked v).slave.tx, ?_, ?_, htx⟩
  · unfold State.ticked State.tickedSlave State.tickRaised State.withRings
    dsimp only
    rw [hshift, hr.isFull_eq]
  · rw [ticked_rx, ticked_rx]
    by_cases h15 : s.tickIndex = 15
    · rw [if_pos h15, if_pos (show (s.withRings r x).tickIndex = 15 from h15)]
      exact hr.push _
    · rw [if_neg h15, if_neg (show ¬ (s.withRings r x).tickIndex = 15 from h15)]
      exact hr.queue

/-- `CLK`: whether a handler runs is decided without the rings (R80, R85). -/
theorem exec_clk_seesQueuesOnly (v : Level) : SeesQueuesOnly (exec (.clk v)) := by
  intro s r x hr hx
  by_cases hidle : v = s.env.pinClk ∨ s.slave.active = false
  · exact ⟨_, r, x, clkWithoutHandlerOnlyMovesThePin v s hidle,
      clkWithoutHandlerOnlyMovesThePin v (s.withRings r x) hidle, hr.queue, hx.queue⟩
  obtain ⟨hv, hactive⟩ := not_or.1 hidle
  rw [Bool.not_eq_false] at hactive
  cases hd : deselected s.params s.env
  · obtain ⟨r', x', e, hr', hx'⟩ := ticked_withRings v hr hx
    have hexec := exec_clk_ticked (s := s.withRings r x) hv ⟨hactive, hd⟩
    exact ⟨_, r', x', exec_clk_ticked hv ⟨hactive, hd⟩, hexec.trans (congrArg _ e), hr', hx'⟩
  · simp only [deselected, Bool.and_eq_true, bne_iff_ne] at hd
    exact ⟨_, r, x, deselectedEdgeAbandonsTheByte v s hv hactive hd.1 hd.2,
      deselectedEdgeAbandonsTheByte v (s.withRings r x) hv hactive hd.1 hd.2, hr.queue, hx.queue⟩

/-- `SEL`: the preloaded bit is read off the transmit queue (R93). -/
theorem exec_sel_seesQueuesOnly (v : Level) : SeesQueuesOnly (exec (.sel v)) := by
  intro s r x hr hx
  by_cases hidle : v = s.env.pinSel ∨ s.slave.active = false ∨ s.params.hasDout = false
  · exact ⟨_, r, x, selWithoutHandlerOnlyMovesThePin v s hidle,
      selWithoutHandlerOnlyMovesThePin v (s.withRings r x) hidle, hr.queue, hx.queue⟩
  simp only [not_or, Bool.not_eq_false] at hidle
  obtain ⟨hv, hactive, hdout⟩ := hidle
  by_cases hsel : v = s.params.selActive
  · have hexec := selToActiveDrivesAndPreloads v (s.withRings r x) hv hactive hdout hsel
    have hqueue : (s.withRings r x).slave.tx.queue (s.withRings r x).params.txCap = s.slave.tx.queue s.params.txCap :=
      hx.queue.symm
    rw [hqueue] at hexec
    exact ⟨_, r, x, selToActiveDrivesAndPreloads v s hv hactive hdout hsel, hexec, hr.queue, hx.queue⟩
  · exact ⟨_, r, x, selToInactiveReleasesTheLine v s hv hactive hdout hsel,
      selToInactiveReleasesTheLine v (s.withRings r x) hv hactive hdout hsel, hr.queue, hx.queue⟩

/-- `begin` sees no ring (R100). -/
theorem exec_begin_seesQueuesOnly : SeesQueuesOnly (exec .beginSession) := by
  intro s r x hr hx
  by_cases hidle : s.slave.active = true ∨ ¬ activationContract s.params
  · exact ⟨_, r, x, beginOtherwiseChangesNothing s hidle, beginOtherwiseChangesNothing (s.withRings r x) hidle,
      hr.queue, hx.queue⟩
  · simp only [not_or, Bool.not_eq_true, not_not] at hidle
    obtain ⟨hactive, hok⟩ := hidle
    exact ⟨_, r, x, beginStartsASession s hactive hok, beginStartsASession (s.withRings r x) hactive hok,
      hr.queue, hx.queue⟩

/-- The operations of the packet decoder see no ring (R137). -/
theorem OnDecoderAlone.seesQueuesOnly {f : State → Answer} (hf : OnDecoderAlone f) : SeesQueuesOnly f := by
  intro s r x hr hx
  obtain ⟨s', -, h⟩ := hf s
  exact ⟨_, r, x, h s.params s.slave s.env s.io, h s.params (s.withRings r x).slave s.env s.io, hr.queue, hx.queue⟩

/-- A query sees the queues only when its result does. -/
theorem answer_seesQueuesOnly {g : State → Result} {cs : State → List Condition}
    (hg : ∀ s r x, s.slave.rx.Alike s.params.rxCap r → s.slave.tx.Alike s.params.txCap x →
      g (s.withRings r x) = g s ∧ cs (s.withRings r x) = cs s) :
    SeesQueuesOnly fun s => .next (s.emit (some (g s)) (cs s)) := by
  intro s r x hr hx
  obtain ⟨hresult, hraised⟩ := hg s r x hr hx
  exact ⟨_, r, x, rfl, by dsimp only; rw [hresult, hraised]; rfl, hr.queue, hx.queue⟩

/-- Every stimulus sees the queues only. -/
theorem exec_seesQueuesOnly (i : Instr) : SeesQueuesOnly (exec i) := by
  by_cases hop : 0x20 ≤ i.op.toNat
  · exact (exec_onDecoderAlone hop).seesQueuesOnly
  cases i with
  | clk v => exact exec_clk_seesQueuesOnly v
  | sel v => exact exec_sel_seesQueuesOnly v
  | beginSession => exact exec_begin_seesQueuesOnly
  | din _ | time _ | rxHasLostData | getResyncCount =>
    exact fun _ r x hr hx => ⟨_, r, x, rfl, rfl, hr.queue, hx.queue⟩
  | endSession =>
    exact fun s r x hr hx =>
      ⟨_, r, x, endDetachesAndReleases s, endDetachesAndReleases (s.withRings r x), hr.queue, hx.queue⟩
  | reset => exact fun _ _ _ _ _ => ⟨_, .empty, .empty, rfl, rfl, rfl, rfl⟩
  | rxBytesAvailable =>
    exact answer_seesQueuesOnly fun s r x hr _ => ⟨congrArg Result.number hr.count_eq, rfl⟩
  | rxBytesRemaining =>
    exact answer_seesQueuesOnly fun s r x hr _ =>
      ⟨congrArg (fun n => Result.number (s.params.rxCap.entries - n)) hr.count_eq, rfl⟩
  | rxHasData =>
    exact answer_seesQueuesOnly fun s r x hr _ =>
      ⟨congrArg (fun n => Result.boolean (decide (0 < n))) hr.count_eq, rfl⟩
  | txIsFull => exact answer_seesQueuesOnly fun s r x _ hx => ⟨congrArg Result.boolean hx.isFull_eq, rfl⟩
  | peek =>
    exact answer_seesQueuesOnly fun s r x hr _ =>
      ⟨congrArg Result.byte hr.peek_eq, hr.underflowOf_eq⟩
  | read =>
    intro s r x hr hx
    refine ⟨_, (r.pop s.params.rxCap).2, x, exec_read s, ?_, hr.pop, hx.queue⟩
    rw [← hr.pop_fst, ← hr.underflowOf_eq]
    exact exec_read (s.withRings r x)
  | write b =>
    exact fun s r x hr hx => ⟨_, r, x.push s.params.txCap b, exec_write b s, rfl, hr.queue, hx.push b⟩
  | _ => simp [Instr.op] at hop

/-- Settles O50: a state that differs in its cells only is the state with other rings. -/
theorem onlyTheQueuesAreObservable : Obligations.OnlyTheQueuesAreObservable := by
  intro i s t hst hsrx hstx htrx httx
  have ht := eq_withRings_of_sameButCells hst
  obtain ⟨hp, -, -, -, -, hqrx, hqtx⟩ := hst
  rw [← hp] at htrx httx
  obtain ⟨s', r', x', hs', ht', hrx, htx⟩ :=
    exec_seesQueuesOnly i s t.slave.rx t.slave.tx ⟨hsrx, htrx, hqrx⟩ ⟨hstx, httx, hqtx⟩
  rw [← ht] at ht'
  exact ⟨s', s'.withRings r' x', hs', ht', rfl, rfl, rfl, rfl, rfl, hrx, htx⟩

end Sys2Proof.Machine
end

section
/-! The ticks of a whole byte (spec/40_spi_slave_events.md R95, spec/30_encoding.md R74): what is known after each of its
edges, kept edge by edge. -/

namespace Sys2Proof.Machine

/-! ### One clock edge -/

/-- The state in which the edge `e` is handled when its pauses end at `now`. -/
def State.atEdge (t : State) (e : ClockEdge) (now : Word32) : State :=
  { t with env := { t.env with nowMs := now, pinDin := e.din }, io := { t.io with result := none, raised := [] } }

/-- No timeout lies before the edge `e`: the byte is at its start, or the last edge was just now and the pause is in
time (R88). -/
def State.Unbroken (t : State) (e : ClockEdge) : Prop :=
  0 < t.slave.dataIndex.val → t.slave.lastEdgeMs = t.env.nowMs ∧ e.inTime t.params

/-- An unbroken edge is handled at the half-bit count the last one left (R88). -/
theorem State.Unbroken.not_restarts {t : State} {e : ClockEdge} (h : t.Unbroken e) {now : Word32}
    (hnow : now.toNat = (t.env.nowMs.toNat + e.waits.sum) % 2 ^ 32) : ¬ (t.atEdge e now).restarts := by
  rintro ⟨hpos, hmax, hlong⟩
  obtain ⟨hlast, htime⟩ := h hpos
  have hlt := t.env.nowMs.isLt
  have hpause : (now.toNat + 2 ^ 32 - t.slave.lastEdgeMs.toNat) % 2 ^ 32 = e.waits.sum % 2 ^ 32 := by
    rw [hnow, hlast]
    omega
  have hlong' : t.params.maxClkTime.toNat < e.waits.sum % 2 ^ 32 := hpause ▸ hlong
  have hmax' : 0 < t.params.maxClkTime.toNat := hmax
  obtain h | h := htime <;> omega

theorem execAll_cons {i : Instr} {s t : State} (h : exec i s = .next t) (is : List Instr) :
    execAll (i :: is) s = execAll is t := by rw [execAll, h]

/-- The stimuli of an edge on a ticking slave end in a tick (R80, R82, R83). -/
theorem execAll_edge_ticked {t : State} (ht : t.ticking) (e : ClockEdge) :
    ∃ now, now.toNat = (t.env.nowMs.toNat + e.waits.sum) % 2 ^ 32
      ∧ execAll (e.stimuli (!t.env.pinClk)) t = .next ((t.atEdge e now).ticked (!t.env.pinClk)) := by
  obtain ⟨now, hnow, hexec⟩ := execAll_edge e (!t.env.pinClk) [] t
  have hv : (!t.env.pinClk) ≠ (t.atEdge e now).env.pinClk := by simp [State.atEdge]
  rw [List.append_nil] at hexec
  exact ⟨now, hnow, hexec.trans (execAll_cons (exec_clk_ticked hv (s := t.atEdge e now) ht) [])⟩

/-- Clock edges, the last one set apart: the levels alternate. -/
theorem clockTicks_concat (es : List ClockEdge) (e : ClockEdge) (v : Level) :
    clockTicks (es ++ [e]) v = clockTicks es v ++ e.stimuli (v ^^ es.length.bodd) := by
  induction es generalizing v with
  | nil => simp [clockTicks]
  | cons d es ih => simp [clockTicks, ih, Nat.bodd_succ]

/-! ### The edges of a byte -/

/-- The parity of the sample edges among the edges of a byte (R86, R89). -/
def State.sampleParity (s : State) : Nat := if s.samplesOn (!s.env.pinClk) then 0 else 1

theorem sampleParity_lt (s : State) : s.sampleParity < 2 := by
  rw [State.sampleParity]
  split <;> decide

/-- Edge `k` of a byte is a sample edge when it has their parity. -/
theorem samplesOn_edge_iff (s : State) (k : Nat) :
    s.samplesOn ((!s.env.pinClk) ^^ k.bodd) ↔ k % 2 = s.sampleParity := by
  rw [Nat.mod_two_of_bodd, State.sampleParity]
  simp only [State.samplesOn]
  generalize decide (s.params.clkMode = .mode0 ∨ s.params.clkMode = .mode3) = rising
  cases s.env.pinClk <;> cases k.bodd <;> cases rising <;> decide

/-- `b` has the data-in level of every sample edge among `es`, each at its position. -/
def State.Sampled (s : State) (es : List ClockEdge) (b : Byte) : Prop :=
  ∀ p, 2 * p + s.sampleParity < es.length →
    bitAt b (bitnum s.params.bitOrder p) = (es.map (·.din)).getD (2 * p + s.sampleParity) false

/-- Two positions of a byte have two bits (R65). -/
theorem bitnum_ne (order : BitOrder) {p q : Nat} (hp : p < 8) (hq : q < 8) (h : p ≠ q) :
    bitnum order p ≠ bitnum order q := by
  cases order <;> simp only [bitnum] <;> omega

/-- A sample edge assigns the bit of its position; a shift edge comes between two positions (R90). -/
theorem sampled_concat {s : State} {es : List ClockEdge} {b : Byte} (h : s.Sampled es b) (hlen : es.length < 16)
    (e : ClockEdge) :
    s.Sampled (es ++ [e]) (if es.length % 2 = s.sampleParity
      then assignBit b (bitnum s.params.bitOrder (es.length / 2)) e.din else b) := by
  have hparity := sampleParity_lt s
  intro p hp
  rw [List.length_append, List.length_singleton] at hp
  rw [List.map_append, List.map_singleton]
  by_cases hlast : 2 * p + s.sampleParity = es.length
  · have hp2 : es.length / 2 = p := by omega
    rw [if_pos (by omega), hp2, bitAt_assignBit _ (bitnum_lt _ (by omega)), if_pos rfl, hlast,
      List.getD_append_right _ _ _ _ (by simp)]
    simp
  · have hold : 2 * p + s.sampleParity < es.length := by omega
    rw [List.getD_append _ _ _ _ (by simpa using hold), ← h p hold]
    split
    · rw [bitAt_assignBit _ (bitnum_lt _ (by omega)), if_neg]
      exact bitnum_ne _ (by omega) (by omega) (by omega)
    · rfl

/-- What is known of `t`, which the first edges `es` of a byte begun in `s` lead to, 16 at most. -/
structure AfterEdges (s : State) (es : List ClockEdge) (t : State) : Prop where
  params : t.params = s.params
  ticking : t.ticking
  nextLevel : (!t.env.pinClk) = ((!s.env.pinClk) ^^ es.length.bodd)
  dataIndex : t.slave.dataIndex.val = es.length % 16
  resyncCount : t.slave.resyncCount = s.slave.resyncCount
  rx : t.slave.rx = if es.length = 16 then s.slave.rx.push s.params.rxCap t.slave.rxShift else s.slave.rx
  tx : es = [] → t.slave.tx = s.slave.tx
  txShift : es ≠ [] → t.slave.txShift = (s.slave.tx.queue s.params.txCap).headD 0x00#8
  lastEdgeMs : es ≠ [] → t.slave.lastEdgeMs = t.env.nowMs
  sampled : s.params.hasDin = true → s.Sampled es t.slave.rxShift
  driven : es ≠ [] → s.params.hasDout = true → es.length % 2 = s.sampleParity →
    t.slave.doutLevel = if es.length = 16 then false
      else bitAt t.slave.txShift (bitnum s.params.bitOrder (es.length / 2))

theorem afterEdges_nil {s : State} (ht : s.ticking) (h0 : s.slave.dataIndex.val = 0) : AfterEdges s [] s where
  params := rfl
  ticking := ht
  nextLevel := by simp
  dataIndex := h0
  resyncCount := rfl
  rx := rfl
  tx _ := rfl
  txShift h := absurd rfl h
  lastEdgeMs h := absurd rfl h
  sampled _ _ h := absurd h (Nat.not_lt_zero _)
  driven h := absurd rfl h

/-- One edge more, with no timeout before it. -/
theorem AfterEdges.concat {s t : State} {es : List ClockEdge} (h : AfterEdges s es t) (hlen : es.length < 16)
    {e : ClockEdge} {now : Word32} (hr : ¬ (t.atEdge e now).restarts) :
    AfterEdges s (es ++ [e]) ((t.atEdge e now).ticked (!t.env.pinClk)) := by
  have hk : (t.atEdge e now).tickIndex = es.length := by
    rw [State.tickIndex, if_neg hr]
    exact h.dataIndex.trans (Nat.mod_eq_of_lt hlen)
  have hsample : (t.atEdge e now).samplesOn (!t.env.pinClk) ↔ es.length % 2 = s.sampleParity := by
    rw [← samplesOn_edge_iff, ← h.nextLevel]
    simp only [State.samplesOn, State.atEdge, h.params]
  have hparity := sampleParity_lt s
  have hparams : (t.atEdge e now).params = s.params := h.params
  have hrx : (t.atEdge e now).slave.rx = s.slave.rx := h.rx.trans (if_neg hlen.ne)
  have hlen' : (es ++ [e]).length = es.length + 1 := List.length_append
  constructor
  case params => exact h.params
  case ticking => exact h.ticking
  case nextLevel => rw [hlen', Nat.bodd_succ, Bool.xor_not, ← h.nextLevel]; rfl
  case dataIndex => rw [ticked_dataIndex, hk, hlen']
  case resyncCount => rw [ticked_resyncCount, if_neg hr]; exact h.resyncCount
  case rx =>
    rw [ticked_rx, hk, hlen', hrx, hparams]
    simp only [Nat.reduceEqDiff]
  case tx => intro hnil; simp at hnil
  case txShift =>
    intro _
    rw [ticked_txShift, hparams]
    by_cases hes : es = []
    · subst hes
      rw [← h.tx rfl]
      exact (loadTransmit_of_start s.params (sl := t.slave) h.dataIndex).1
    · have hpos : 0 < t.slave.dataIndex.val := by
        rw [h.dataIndex, Nat.mod_eq_of_lt hlen]
        exact List.length_pos_of_ne_nil hes
      exact (congrArg Slave.txShift (loadTransmit_of_pos s.params t.slave hpos)).trans (h.txShift hes)
  case lastEdgeMs => intro _; rfl
  case sampled =>
    intro hdin
    have hbyte := sampled_concat (h.sampled hdin) hlen e
    simp only [← hsample] at hbyte
    simp only [ticked_rxShift, hk, hparams, hdin, and_true]
    exact hbyte
  case driven =>
    intro _ hdout hshift
    rw [hlen'] at hshift ⊢
    have hnot : ¬ (t.atEdge e now).samplesOn (!t.env.pinClk) := by rw [hsample]; omega
    rw [ticked_doutLevel, if_pos ⟨hnot, hparams ▸ hdout⟩, hk, hparams]
    simp only [Nat.reduceEqDiff]

/-- The edges of a byte, 16 at most, with no timeout before any but the first. -/
theorem execAll_clockTicks {s : State} {es : List ClockEdge} (ht : s.ticking) (h0 : s.slave.dataIndex.val = 0)
    (hlen : es.length ≤ 16) (htime : ∀ e ∈ es.tail, e.inTime s.params) :
    ∃ t, execAll (clockTicks es (!s.env.pinClk)) s = .next t ∧ AfterEdges s es t := by
  induction es using List.reverseRecOn with
  | nil => exact ⟨s, rfl, afterEdges_nil ht h0⟩
  | append_singleton es e ih =>
    rw [List.length_append, List.length_singleton] at hlen
    obtain ⟨t, hrun, hafter⟩ := ih (by omega) fun d hd => htime d (by
      cases es with
      | nil => cases hd
      | cons _ _ => exact List.mem_append_left _ hd)
    have hunbroken : t.Unbroken e := by
      intro hpos
      rw [hafter.dataIndex] at hpos
      have hes : es ≠ [] := by rintro rfl; simp at hpos
      refine ⟨hafter.lastEdgeMs hes, hafter.params ▸ htime e ?_⟩
      rw [List.tail_append_of_ne_nil hes]
      exact List.mem_append_right _ List.mem_cons_self
    obtain ⟨now, hnow, hedge⟩ := execAll_edge_ticked hafter.ticking e
    refine ⟨_, ?_, hafter.concat (by omega) (hunbroken.not_restarts hnow)⟩
    rw [clockTicks_concat, execAll_append hrun, ← hafter.nextLevel]
    exact hedge

/-- Settles O24: what is known after 16 edges. -/
theorem sixteenTicksPushOneByte : Obligations.SixteenTicksPushOneByte := by
  intro s es ht hin h0 hdin hlen htime
  obtain ⟨t, hrun, h⟩ := execAll_clockTicks ht h0 hlen.le htime
  have hindex := h.dataIndex
  have hrx := h.rx
  rw [hlen] at hindex hrx
  refine ⟨t, hrun, hindex, h.resyncCount, ?_, fun p hp => h.sampled hdin p ?_⟩
  · rw [hrx, if_pos rfl, ByteRing.queue_push hin]
  · have hparity := sampleParity_lt s
    omega

/-- Settles O26: the last edge is a shift edge, edge `2n` or `2n + 1` of the byte. -/
theorem transmitByteIsDrivenBitByBit : Obligations.TransmitByteIsDrivenBitByBit := by
  intro s es n ht h0 hdout hn htime
  refine ⟨fun hshift hlen => ?_, fun hsample hlen => ?_⟩
  · obtain ⟨t, hrun, h⟩ := execAll_clockTicks ht h0 (by omega) htime
    have hes : es ≠ [] := by rintro rfl; simp at hlen
    have hparity : s.sampleParity = 1 := if_neg hshift
    have hdriven := h.driven hes hdout (by omega)
    rw [if_neg (by omega), show es.length / 2 = n by omega] at hdriven
    exact ⟨t, hrun, h.txShift hes, hdriven⟩
  · obtain ⟨t, hrun, h⟩ := execAll_clockTicks ht h0 (by omega) htime
    have hes : es ≠ [] := by rintro rfl; simp at hlen
    have hparity : s.sampleParity = 0 := if_pos hsample
    have hdriven := h.driven hes hdout (by omega)
    rw [show es.length / 2 = n + 1 by omega] at hdriven
    refine ⟨t, hrun, h.txShift hes, hdriven.trans ?_⟩
    by_cases h7 : n = 7
    · rw [if_pos (by omega), if_pos h7]
    · rw [if_neg (by omega), if_neg h7]

/-! ### XFER -/

/-- `XFER` as clock edges: for each position two, with the position's bit on the data-in pin (R74). -/
def transferEdges (order : BitOrder) (b : Byte) (ps : List Nat) : List ClockEdge :=
  ps.flatMap fun p => [⟨[], bitAt b (bitnum order p)⟩, ⟨[], bitAt b (bitnum order p)⟩]

/-- The outputs of the stimulus before do not enter a clock edge. -/
theorem exec_clk_of_outputs (v : Level) (s : State) :
    exec (.clk v) { s with io := { s.io with result := none, raised := [] } } = exec (.clk v) s := by
  obtain ⟨s', -, -, h⟩ := execClk_besideDecoder v s
  exact (h s.decoder _).trans (h s.decoder s.io).symm

/-- `CLK` leaves the data-in pin (R80). -/
theorem exec_clk_pinDin (v : Level) (s : State) : ∃ t, exec (.clk v) s = .next t ∧ t.env.pinDin = s.env.pinDin := by
  obtain e | e | ⟨-, -, e⟩ := exec_clk_cases v s <;> exact ⟨_, e, rfl⟩

/-- Presenting a level the data-in pin has already, before a clock edge, changes nothing (R82). -/
theorem execAll_din_again {d : Level} {s : State} (hd : s.env.pinDin = d) (v : Level) (is : List Instr) :
    execAll (.din d :: .clk v :: is) s = execAll (.clk v :: is) s := by
  subst hd
  obtain ⟨t, ht, -⟩ := exec_clk_pinDin v s
  rw [execAll_cons ht]
  exact execAll_cons ((exec_clk_of_outputs v s).trans ht) is

/-- The stimuli of `XFER` and its clock edges run alike. -/
theorem execAll_xfer (order : BitOrder) (b : Byte) (v : Level) (ps : List Nat) (s : State) :
    execAll (ps.flatMap (xferBit order b v)) s = execAll (clockTicks (transferEdges order b ps) v) s := by
  induction ps generalizing s with
  | nil => rfl
  | cons p ps ih =>
    let d := bitAt b (bitnum order p)
    have hdin : exec (.din d) s
      = .next { s with env := { s.env with pinDin := d }, io := { s.io with result := none, raised := [] } } := rfl
    obtain ⟨t, ht, hpin⟩ := exec_clk_pinDin v
      { s with env := { s.env with pinDin := d }, io := { s.io with result := none, raised := [] } }
    obtain ⟨u, hu, -⟩ := exec_clk_pinDin (!v) t
    show execAll (.din d :: .clk v :: .clk (!v) :: ps.flatMap (xferBit order b v)) s
      = execAll (.din d :: .clk v :: .din d :: .clk (!v) :: clockTicks (transferEdges order b ps) (!!v)) s
    simp only [execAll_cons hdin, execAll_cons ht, execAll_din_again hpin, execAll_cons hu, Bool.not_not, ih]

/-- Each position of a byte has its bit on both its edges. -/
theorem transferEdges_din (order : BitOrder) (b : Byte) {p k : Nat} (hp : p < 8) (hk : k < 2) :
    ((transferEdges order b (List.range 8)).map (·.din)).getD (2 * p + k) false = bitAt b (bitnum order p) := by
  interval_cases p <;> interval_cases k <;> rfl

/-- The position of a bit number is the bit number of the position (R65). -/
theorem bitnum_bitnum (order : BitOrder) {n : Nat} (hn : n < 8) : bitnum order (bitnum order n) = n := by
  cases order with
  | msbFirst => simp only [bitnum]; omega
  | lsbFirst => rfl

/-- Settles O25: the clock edges of the transfer are 16 edges of one byte, whose bits they carry. -/
theorem xferClocksTheByteIn : Obligations.XferClocksTheByteIn := by
  intro s b ht hin h0 hdin
  have htime : ∀ e ∈ (transferEdges s.params.bitOrder b (List.range 8)).tail, e.inTime s.params := by
    intro e he
    obtain ⟨p, -, he⟩ := List.mem_flatMap.1 (List.mem_of_mem_tail he)
    have hwaits : e.waits = [] := by
      simp only [List.mem_cons, List.not_mem_nil, or_false, or_self] at he
      rw [he]
    exact .inr (by simp [hwaits])
  obtain ⟨t, hrun, hindex, -, hqueue, hbits⟩ :=
    sixteenTicksPushOneByte s (transferEdges s.params.bitOrder b (List.range 8)) ht hin h0 hdin rfl htime
  have hbyte : t.slave.rxShift = b := by
    refine BitVec.eq_of_getLsbD_eq fun n hn => ?_
    have hp := bitnum_lt s.params.bitOrder hn
    have hbit := hbits (bitnum s.params.bitOrder n) hp
    rw [transferEdges_din _ _ hp (by split <;> decide), bitnum_bitnum _ hn] at hbit
    exact hbit
  exact ⟨t, (execAll_xfer _ _ _ _ s).trans hrun, hbyte, hindex, hbyte ▸ hqueue⟩

end Sys2Proof.Machine
end
